-- ==== Sys2Proof/Word.lean ====
section
/-! DEFINITION. The word types of the hardware: words of 64 bits and bytes of 8 bits (R9), byte sequences (R10),
the State of 8 words (R20) and the S-Box of 256 bytes (R26). -/

namespace Sys2Proof

/-- A word: 64 bits, unsigned, bit 0 the least significant (R9). -/
abbrev Word := BitVec 64

/-- A byte: 8 bits, unsigned (R9). -/
abbrev Byte := BitVec 8

/-- A byte sequence: its length is any natural number, index 0 is the first byte (R10). -/
abbrev Bytes := List Byte

/-- Eight words of 64 bits, word 0 first: the State (R20) and the digest (R42). -/
abbrev Words := Vector Word 8

/-- A table of 256 bytes: the S-Box (R26). -/
abbrev Table := Vector Byte 256

end Sys2Proof
end

