-- ==== Sys2Proof/Syntax.lean ====
section
/-! DEFINITION. The ten operations of FHC-1 (R62) with the typed operands of R63. -/

namespace Sys2Proof

/-- One constructor for each row of spec/opcode_table.json, its operands in the order of R63. Operands are typed values
beside the op code (R60, D3). `block` carries `DATA`; `LEN` is its length and travels in the encoding (R64). -/
inductive Instr where
  /-- `INIT` (R160), host command. -/
  | init
  /-- `BLOCK B` (R144), host command. -/
  | block (data : Bytes)
  /-- `DIGEST` (R162), host command. -/
  | digest
  /-- `PAD B` (R140), unit operation. -/
  | pad (b : Bytes)
  /-- `ABSORB P` (R142), unit operation. -/
  | absorb (p : Bytes)
  /-- `PERMUTE P` (R130), unit operation. -/
  | permute (p : Bytes)
  /-- `SBOXGEN seed, B` (R80), unit operation. -/
  | sboxgen (seed : Word) (b : Bytes)
  /-- `MIX x, rc, B` (R100), unit operation. -/
  | mix (x rc : Word) (b : Bytes)
  /-- `SUB w` (R110), unit operation. -/
  | sub (w : Word)
  /-- `DIFF r` (R120), unit operation; `r` is any natural number (R65). -/
  | diff (r : Nat)
deriving DecidableEq, Repr

end Sys2Proof
end

