-- ==== Sys2Proof/WellFormed.lean ====
section
/-! DEFINITION. Which instruction terms the spec gives a meaning: every one, but for `ABSORB`, whose operand has a length
that is a multiple of 8 (R63, R142). -/

namespace Sys2Proof

/-- R63: `ABSORB` takes a byte sequence "with `|P|` a multiple of 8"; no other operation restricts its operands. -/
def Instr.wellFormed : Instr → Bool
  | .init => true
  | .block _ => true
  | .digest => true
  | .pad _ => true
  | .absorb p => p.length % 8 == 0
  | .permute _ => true
  | .sboxgen _ _ => true
  | .mix _ _ _ => true
  | .sub _ => true
  | .diff _ => true

end Sys2Proof
end

