-- ==== Sys2Proof/Decode.lean ====
section
/-! DEFINITION. Commands as they reach the block (an op-code byte and typed operands beside it, R60), the op-code map (R62),
the decoder (R68, R69, R64) and the encoder. -/

namespace Sys2Proof

/-- The three formats of R60. -/
inductive Format where
  /-- host command without operands -/
  | h0
  /-- host command with `LEN` and `DATA` -/
  | hb
  /-- unit operation with the typed operands of R63 -/
  | u
deriving DecidableEq, Repr

/-- The ten operation names of R62. -/
inductive Op where
  | init | block | digest | pad | absorb | permute | sboxgen | mix | sub | diff
deriving DecidableEq, Repr

/-- A typed operand carried beside the op code, not packed (R60). -/
inductive Operand where
  /-- a natural number: `LEN`, `r` -/
  | nat (n : Nat)
  /-- a 64-bit word: `seed`, `x`, `rc`, `w` -/
  | word (v : Word)
  /-- a byte sequence: `DATA`, `B`, `P` -/
  | bytes (b : Bytes)
deriving DecidableEq, Repr

/-- An operation as it is issued: `op[7:0]` and its operands (R60). -/
structure Command where
  op       : Byte
  operands : List Operand
deriving DecidableEq, Repr

/-- Why a command has no meaning as an instruction. -/
inductive Reject where
  /-- R68: the op code is not in the map -/
  | reservedOp
  /-- the operands are not those R63 gives the operation, in number or type (log entry 8) -/
  | badOperands
  /-- `BLOCK`: `DATA` is not `LEN` bytes (R64; log entry 8) -/
  | lengthMismatch
deriving DecidableEq, Repr

/-- One row of the op-code map. -/
structure OpRow where
  code   : Byte
  name   : Op
  format : Format
deriving DecidableEq, Repr

/-- The complete op-code map, row by row as R62 prints it. -/
def opcodeMap : List OpRow :=
  [⟨0x01, .init, .h0⟩, ⟨0x02, .block, .hb⟩, ⟨0x03, .digest, .h0⟩,
   ⟨0x10, .pad, .u⟩, ⟨0x11, .absorb, .u⟩, ⟨0x20, .permute, .u⟩, ⟨0x30, .sboxgen, .u⟩,
   ⟨0x40, .mix, .u⟩, ⟨0x50, .sub, .u⟩, ⟨0x60, .diff, .u⟩]

/-- R69: a decoder reads one byte and looks it up in R62. -/
def lookupOp (b : Byte) : Option OpRow := opcodeMap.find? fun row => row.code == b

/-- The operands of an operation, in the order and with the types of R63; `LEN` comes before `DATA` (R60). -/
def decodeOperands : Op → List Operand → Except Reject Instr
  | .init, [] => .ok .init
  | .block, [.nat len, .bytes data] => if data.length = len then .ok (.block data) else .error .lengthMismatch
  | .digest, [] => .ok .digest
  | .pad, [.bytes b] => .ok (.pad b)
  | .absorb, [.bytes p] => .ok (.absorb p)
  | .permute, [.bytes p] => .ok (.permute p)
  | .sboxgen, [.word seed, .bytes b] => .ok (.sboxgen seed b)
  | .mix, [.word x, .word rc, .bytes b] => .ok (.mix x rc b)
  | .sub, [.word w] => .ok (.sub w)
  | .diff, [.nat r] => .ok (.diff r)
  | _, _ => .error .badOperands

/-- The decoder: total, rejecting by name. A reserved op code is found before operands are looked at (R174). -/
def decode (c : Command) : Except Reject Instr :=
  match lookupOp c.op with
  | none => .error .reservedOp
  | some row => decodeOperands row.name c.operands

/-- The operation an instruction belongs to. -/
def Instr.op : Instr → Op
  | .init => .init
  | .block _ => .block
  | .digest => .digest
  | .pad _ => .pad
  | .absorb _ => .absorb
  | .permute _ => .permute
  | .sboxgen _ _ => .sboxgen
  | .mix _ _ _ => .mix
  | .sub _ => .sub
  | .diff _ => .diff

/-- The op-code byte of an operation (R62). -/
def Op.code : Op → Byte
  | .init => 0x01
  | .block => 0x02
  | .digest => 0x03
  | .pad => 0x10
  | .absorb => 0x11
  | .permute => 0x20
  | .sboxgen => 0x30
  | .mix => 0x40
  | .sub => 0x50
  | .diff => 0x60

/-- The format of an operation (R62). -/
def Op.format : Op → Format
  | .init => .h0
  | .block => .hb
  | .digest => .h0
  | .pad => .u
  | .absorb => .u
  | .permute => .u
  | .sboxgen => .u
  | .mix => .u
  | .sub => .u
  | .diff => .u

/-- R61: formats `H0` and `HB` are host commands; `U` operations are issued by the block's own sequencers. -/
def Format.isHost : Format → Bool
  | .h0 => true
  | .hb => true
  | .u => false

/-- R61 of an instruction. -/
def Instr.isHost (i : Instr) : Bool := i.op.format.isHost

/-- The operands an instruction is issued with (R60, R63). -/
def Instr.operands : Instr → List Operand
  | .init => []
  | .block data => [.nat data.length, .bytes data]
  | .digest => []
  | .pad b => [.bytes b]
  | .absorb p => [.bytes p]
  | .permute p => [.bytes p]
  | .sboxgen seed b => [.word seed, .bytes b]
  | .mix x rc b => [.word x, .word rc, .bytes b]
  | .sub w => [.word w]
  | .diff r => [.nat r]

/-- The encoder: the op-code byte of R62 and the operands beside it. -/
def encode (i : Instr) : Command := ⟨i.op.code, i.operands⟩

/-- The operands of an operation, each of them zero or empty: what stands for "operand words of zeros" where a word of the
op-code table is given without operands (the table packs none, D3). -/
def Op.zeroOperands : Op → List Operand
  | .init => []
  | .block => [.nat 0, .bytes []]
  | .digest => []
  | .pad => [.bytes []]
  | .absorb => [.bytes []]
  | .permute => [.bytes []]
  | .sboxgen => [.word 0, .bytes []]
  | .mix => [.word 0, .word 0, .bytes []]
  | .sub => [.word 0]
  | .diff => [.nat 0]

/-- The command of an op-code byte with all operands zero. -/
def commandOfByte (b : Byte) : Command :=
  match lookupOp b with
  | none => ⟨b, []⟩
  | some row => ⟨b, row.name.zeroOperands⟩

/-- What the decoder reads from an op-code-table word: every row has 8 bits, so another number of bits, or a word that
does not fit in 8, is no instruction. -/
def decodeTableWord (nbits w : Nat) : Option Instr :=
  if nbits = 8 ∧ w < 256 then (decode (commandOfByte (BitVec.ofNat 8 w))).toOption else none

end Sys2Proof
end

