-- ==== Sys2Proof/Config.lean ====
section
/-! DEFINITION. What the source leaves open: the configuration record `Cfg` with the named properties the source states
of its fields (R6), and the free values the spec calls unspecified (R33, R31, R191). No free value has a body. -/

namespace Sys2Proof

/-- The configuration record (R6). One field for each thing the source leaves open. A hardware has one, fixed at build time
(R32, R192); it is not state (R8). `rc` is the read-only table of 24 round constants (R25). -/
structure Cfg where
  rc       : Vector Word 24
  sboxSh2  : Fin 64
  sboxSh5  : Fin 64
  sboxSh7  : Fin 64
  sboxPos  : Fin 8 → Fin 64
  mixCore  : Word → Word → Word
  mixK3    : Word
  mixK6    : Word
  mixFold  : Word → Word → Word
  maxLen   : Option Nat

/-- `P_MIX_K` of R6: both fold constants are odd, and they differ. -/
def Cfg.PMixK (c : Cfg) : Prop :=
  c.mixK3.getLsbD 0 = true ∧ c.mixK6.getLsbD 0 = true ∧ c.mixK3 ≠ c.mixK6

/-- `P_SBOX_SH` of R6: the three shift amounts are pairwise different. -/
def Cfg.PSboxSh (c : Cfg) : Prop :=
  c.sboxSh2 ≠ c.sboxSh5 ∧ c.sboxSh2 ≠ c.sboxSh7 ∧ c.sboxSh5 ≠ c.sboxSh7

namespace Config

/-- FREE VALUE: what the S-Box `T` holds after reset. R33: "a model must not give it a value a proof could use". -/
opaque resetTable : Table

/-- FREE VALUE: what the padded-block buffer `P` holds after reset (R33, R28). -/
opaque resetBuffer : Bytes

/-- FREE VALUE: what the S-Box holds once a `BLOCK` has completed (R34: "created and discarded once per block"; U8). -/
opaque staleTable : Nat → Table

/-- FREE VALUE: what the padded-block buffer holds once a `BLOCK` has completed (R28: "discarded when `BLOCK` completes"; U8),
or where `PAD` gives it more than its capacity (R28). The buffer cuts it to its capacity. -/
opaque staleBuffer : Nat → Bytes

/-- FREE VALUE: what the generator word holds once a `BLOCK` has completed (R30, U8). -/
opaque staleGen : Nat → Word

/-- FREE VALUE: what the generator word `g` holds after reset (R33, R30). -/
opaque resetGen : Word

/-- FREE VALUE: what the diffusion copy holds after reset (R33, R31). -/
opaque resetCopy : Words

/-- FREE VALUE: what the diffusion copy holds once a `DIFF` has completed (R31: "their content is defined only inside one
`DIFF`"). As of every free value that is drawn anew, there is one for each value of the counter `tick` of State. -/
opaque staleCopy : Nat → Words

end Config

end Sys2Proof
end

