-- ==== Sys2Proof/Machine/Constants.lean ====
section
/-! DEFINITION. The constants the source prints (R5). Every literal is unaudited: it is what the document prints. -/

namespace Sys2Proof.Machine

/-- `LCG_M1`, the first-pass multiplier. -/
def lcgM1 : Word := 6364136223846793005#64

/-- `LCG_C1`, the first-pass increment. -/
def lcgC1 : Word := 1#64

/-- `LCG_M2`, the second-pass multiplier. -/
def lcgM2 : Word := 1442695040888963407#64

/-- `LCG_C2`, the second-pass increment. -/
def lcgC2 : Word := 1#64

/-- `DIFF_K`, the odd multiplier of the extra neighbour. -/
def diffK : Word := 0x9E3779B97F4A7C15#64

/-- `DIFF_ROT_C`, the left rotation of the centre neighbour. -/
def diffRotC : Nat := 11

/-- `MIX_FOLD_ROT`, the left rotation of the fold value. -/
def mixFoldRot : Nat := 13

/-- `PAD_MARK`, the byte that ends a block. -/
def padMark : Byte := 0x80#8

/-- `PAD_FILL`, the byte that fills the last chunk. -/
def padFill : Byte := 0x00#8

/-- `CHUNK`, the bytes of one absorbed chunk. -/
def chunk : Nat := 8

/-- `NROUNDS`, the rounds of one `PERMUTE`. -/
def nRounds : Nat := 24

end Sys2Proof.Machine
end

