-- ==== Sys2Proof/Machine/Arith.lean ====
section
/-! DEFINITION. The arithmetic primitives (R12 to R17): 64-bit unsigned, wrapping, total. -/

namespace Sys2Proof.Machine

/-- `add64` wraps modulo 2^64 (R12). -/
abbrev add64 (a b : Word) : Word := a + b

/-- `sub64` wraps modulo 2^64 (R12). -/
abbrev sub64 (a b : Word) : Word := a - b

/-- `mul64` wraps modulo 2^64 (R12). -/
abbrev mul64 (a b : Word) : Word := a * b

/-- `rotl64(v, n)` for `n` from 0 to 63 (R13). -/
def rotl64 (v : Word) (n : Nat) : Word := if n = 0 then v else (v <<< n) ||| (v >>> (64 - n))

/-- `rotr64(v, n)` for `n` from 0 to 63 (R13). -/
def rotr64 (v : Word) (n : Nat) : Word := if n = 0 then v else (v >>> n) ||| (v <<< (64 - n))

/-- `shl64(v, n)`: bits moved past bit 63 are dropped (R14). -/
def shl64 (v : Word) (n : Fin 64) : Word := v <<< n.val

/-- `umod(a, m)`: remainder of `a` read as an unsigned number (R15). -/
def umod (a : Word) (m : Nat) : Nat := a.toNat % m

/-- `zext_64(b)`: the only widening there is (R17). -/
def zext64 (b : Byte) : Word := b.setWidth 64

/-- Byte `j` of a word is its bits `8j+7` to `8j` (R9). -/
def byteOf (w : Word) (j : Nat) : Byte := w.extractLsb' (8 * j) 8

end Sys2Proof.Machine
end

