-- ==== Sys2Proof/Machine/Operands.lean ====
section
/-! DEFINITION. Reading operands: byte sequences read little-endian (R10, R11, R40), the words of the State (R20) and the
entries of the S-Box (R26). No read has a side effect (R47). -/

namespace Sys2Proof.Machine

/-- The number a byte sequence stands for, first byte least significant (R11). -/
def leNat : Bytes → Nat
  | [] => 0
  | b :: bs => b.toNat + 256 * leNat bs

/-- `MemRead(B, off, n)`, defined where `off + n <= |B|` (R11). -/
def memRead (b : Bytes) (off n : Nat) : Nat := leNat ((b.drop off).take n)

/-- `LE64` of 8 bytes: byte `j` of the word is byte `j` of the sequence (R10). -/
def le64 (b : Bytes) : Word := BitVec.ofNat 64 (leNat b)

/-- Chunk `k` of a padded block as a word: `LE64(P[8k..8k+8])` (R40). -/
def chunkWord (p : Bytes) (k : Nat) : Word := BitVec.ofNat 64 (memRead p (chunk * k) chunk)

/-- The state word `W[k mod 8]`: index arithmetic is modulo 8 (R15, R142). -/
def wordAt (w : Words) (k : Nat) : Word := w[k % 8]'(Nat.mod_lt k (by decide))

/-- The S-Box entry a byte selects; every byte is a valid index (R110). -/
def lookup (t : Table) (b : Byte) : Byte := t[b.toNat]'b.isLt

/-- The all-zero State (R160, R33). -/
def zeroWords : Words := Vector.ofFn fun _ => 0#64

/-- The identity table, entry `b` holds `b` (R82). -/
def identityTable : Table := Vector.ofFn fun b => BitVec.ofNat 8 b.val

end Sys2Proof.Machine
end

