-- ==== Sys2Proof/Machine/Flags.lean ====
section
/-! DEFINITION. The hardware has no flags and no condition codes (R23). What its operations decide on instead are tests on a
length (R67, R172); they are here. -/

namespace Sys2Proof.Machine

/-- R81: the long branch of seed mixing is taken by a sequence of more than 7 bytes. -/
abbrev longForSbox (b : Bytes) : Prop := 7 < b.length

/-- R100: the fold is applied for a sequence of more than 6 bytes. -/
abbrev longForMix (b : Bytes) : Prop := 6 < b.length

/-- R142: `ABSORB` is defined on whole chunks only. -/
def wholeChunks (p : Bytes) : Bool := p.length % chunk == 0

/-- R172: the length test of `BLOCK`, "`Cfg.MAXLEN` is a number and `|B| > Cfg.MAXLEN`". An empty block exceeds no bound. -/
def exceeds (maxLen : Option Nat) (len : Nat) : Bool :=
  match len with
  | 0 => false
  | n + 1 =>
    match maxLen with
    | none => false
    | some m => decide (m < n + 1)

/-- R28: the capacity of the padded-block buffer, `Cfg.MAXLEN` "rounded up to the next multiple of 8 above it", or none. -/
def bufferCapacity (maxLen : Option Nat) : Option Nat := maxLen.map fun m => 8 * (m / 8 + 1)

/-- R28: whether a buffer of a capacity holds a byte sequence. -/
def holds (capacity : Option Nat) (p : Bytes) : Bool :=
  match capacity with
  | none => true
  | some k => decide (p.length ≤ k)

/-- R28: what of a byte sequence a buffer of a capacity can hold; it limits the free values of the buffer. -/
def cutTo (capacity : Option Nat) (p : Bytes) : Bytes :=
  match capacity with
  | none => p
  | some k => p.take k

end Sys2Proof.Machine
end

