-- ==== Sys2Proof/Machine/Units.lean ====
section
/-! DEFINITION. The six units as total functions of their operands (R1, R48), each for every configuration `c`, and their
composition into the function `hash` (R163). -/

namespace Sys2Proof.Machine

/-! ### hash_sbox_gen (R80 to R86) -/

/-- What `SBOXGEN` works on: the table under construction and the generator word (R26, R30). -/
structure Gen where
  t : Table
  g : Word
deriving DecidableEq, Repr

/-- `SEEDMIX(seed, B)` (R81). -/
def seedMix (c : Cfg) (seed : Word) (b : Bytes) : Word :=
  if h : longForSbox b then
    seed ^^^ shl64 (zext64 b[2]) c.sboxSh2 ^^^ shl64 (zext64 b[5]) c.sboxSh5 ^^^ shl64 (zext64 b[7]) c.sboxSh7
  else
    b.zipIdx.foldl (fun s bk => s ^^^ shl64 (zext64 bk.1) (c.sboxPos (Fin.ofNat 8 bk.2))) seed

/-- `swap(T, i, j)` (R11). -/
def swapEntries (t : Table) (i j : Fin 256) : Table := (t.set i t[j]).set j t[i]

/-- The swap partner `umod(g, i + 1)`, at most `i` (R83). -/
def partner (g : Word) (i : Fin 256) : Fin 256 :=
  ⟨umod g (i.val + 1), Nat.lt_of_lt_of_le (Nat.mod_lt _ (Nat.succ_pos _)) i.isLt⟩

/-- `STEP(i, M, C)`: advance the generator, take the partner from the new value, swap (R83). -/
def shuffleStep (m inc : Word) (i : Fin 256) (q : Gen) : Gen :=
  let g := add64 (mul64 q.g m) inc
  ⟨swapEntries q.t i (partner g i), g⟩

/-- The indices of one pass: 255 down to 1 (R84). -/
def passIndices : List (Fin 256) := List.ofFn fun k : Fin 255 => ⟨255 - k.val, by omega⟩

/-- One shuffle pass (R84). -/
def shufflePass (m inc : Word) (q : Gen) : Gen := passIndices.foldl (fun q i => shuffleStep m inc i q) q

/-- The two passes from the identity table, the generator and the table carried from the first into the second
(R82, R84). Irreducible, so that no proof runs its 510 steps unasked. -/
@[irreducible] def shuffle (g : Word) : Gen := shufflePass lcgM2 lcgC2 (shufflePass lcgM1 lcgC1 ⟨identityTable, g⟩)

/-- `SBOXGEN(seed, B)` (R80): the generator starts at the mixed seed. -/
def sboxGen (c : Cfg) (seed : Word) (b : Bytes) : Gen := shuffle (seedMix c seed b)

/-! ### bit_mixer (R100 to R104) -/

/-- `FOLDVAL(B)`, defined for a sequence of more than 6 bytes (R101). -/
def foldVal (c : Cfg) (b : Bytes) (h : longForMix b) : Word :=
  rotl64 (mul64 (zext64 b[3]) c.mixK3 ^^^ mul64 (zext64 b[6]) c.mixK6) mixFoldRot

/-- `MIX(x, rc, B)` (R100, R102, R103). -/
def mixWord (c : Cfg) (x rc : Word) (b : Bytes) : Word :=
  if h : longForMix b then c.mixFold (c.mixCore x rc) (foldVal c b h) else c.mixCore x rc

/-! ### byte_sub (R110) -/

/-- `SUB(w)` with the table `t`: byte `j` of the result is the entry byte `j` of `w` selects. -/
def subWord (t : Table) (w : Word) : Word := le64 ((List.range 8).map fun j => lookup t (byteOf w j))

/-! ### diffusion_mixer (R120, R121) -/

/-- The new word `i` of `DIFF r`, from the 8 words as they were before the step (R120). -/
def diffWord (r : Nat) (old : Words) (i : Nat) : Word :=
  wordAt old i
    ^^^ rotl64 (wordAt old (i + 7)) ((r + 2 * i) % 64)
    ^^^ rotr64 (wordAt old (i + 1)) ((r + 3 * i) % 64)
    ^^^ rotl64 (wordAt old (i + 4)) diffRotC
    ^^^ rotl64 (mul64 (wordAt old (i + 3)) diffK) ((r + 5 * i) % 64)

/-- `DIFF r`: all 8 new words are functions of the 8 old words (R121). -/
def diffWords (r : Nat) (old : Words) : Words := Vector.ofFn fun i => diffWord r old i.val

/-! ### perm_engine_24round (R130 to R134) -/

/-- The seed: the exclusive-or of the 8 words (R131). -/
def seedOf (w : Words) : Word := w[0] ^^^ w[1] ^^^ w[2] ^^^ w[3] ^^^ w[4] ^^^ w[5] ^^^ w[6] ^^^ w[7]

/-- The round constant of round `r`: `RC[r mod 24]` (R133). -/
def roundConst (c : Cfg) (r : Nat) : Word := c.rc[r % 24]'(Nat.mod_lt r (by decide))

/-- `MIX` on every word (R132). -/
def mixWords (c : Cfg) (rc : Word) (p : Bytes) (w : Words) : Words := Vector.ofFn fun i => mixWord c w[i] rc p

/-- `SUB` on every word (R132). -/
def subWords (t : Table) (w : Words) : Words := Vector.ofFn fun i => subWord t w[i]

/-- One round: `MIX` on all 8 words, `SUB` on all 8 words, `DIFF r` (R132). -/
def roundWords (c : Cfg) (t : Table) (p : Bytes) (w : Words) (r : Nat) : Words :=
  diffWords r (subWords t (mixWords c (roundConst c r) p w))

/-- `PERMUTE P` on the State: the S-Box is finished before round 0 (R130, R131). -/
def permuteWords (c : Cfg) (w : Words) (p : Bytes) : Words :=
  (List.range nRounds).foldl (roundWords c (sboxGen c (seedOf w) p).t p) w

/-! ### absorb_padder (R140 to R144) -/

/-- `PAD(B)` (R140). -/
def pad (b : Bytes) : Bytes := b ++ padMark :: List.replicate ((8 - (b.length + 1) % 8) % 8) padFill

/-- One chunk of `ABSORB`: chunk `k` goes into `W[k mod 8]` by exclusive-or (R142, R143). -/
def absorbChunk (p : Bytes) (w : Words) (k : Nat) : Words :=
  w.set (k % 8) (wordAt w k ^^^ chunkWord p k) (Nat.mod_lt k (by decide))

/-- `ABSORB(P)` on the State: every chunk in index order (R142). -/
def absorbWords (p : Bytes) (w : Words) : Words := (List.range (p.length / chunk)).foldl (absorbChunk p) w

/-- `block_fn(W, B)`: the State after `BLOCK B` from State `W` (R144, R163). Both `ABSORB` and `PERMUTE` take the padded
block. -/
def blockWords (c : Cfg) (w : Words) (b : Bytes) : Words := permuteWords c (absorbWords (pad b) w) (pad b)

/-! ### The Hash Driver (R163) -/

/-- `hash(blocks)`: the fold of `block_fn` over the ordered list of blocks, from the all-zero State (R163, R165). -/
def hashBlocks (c : Cfg) (blocks : List Bytes) : Words := blocks.foldl (blockWords c) zeroWords

/-- `P_EMPTY_BLOCK` of R6: the digest of one empty block is not the all-zero digest. -/
def PEmptyBlock (c : Cfg) : Prop := hashBlocks c [[]] ≠ zeroWords

end Sys2Proof.Machine
end

