-- ==== Sys2Proof/Machine/T0.lean ====
section
/-! DEFINITION. The test configuration `T0` (R7). It is the spec's own invention and not the repository's configuration; it
shows that the named properties of R6 can be met together. -/

namespace Sys2Proof.Machine

/-- `T0.MIX_CORE` (R7). -/
def t0MixCore (x rc : Word) : Word :=
  let t := add64 x rc
  let t := t ^^^ rotl64 t 7
  let t := mul64 t diffK
  let t := t ^^^ rotl64 t 17
  let t := sub64 t rc
  let t := t ^^^ rotl64 t 19
  let t := mul64 t lcgM1
  let t := t ^^^ rotl64 t 11
  add64 t (rotl64 t 23)

/-- The record `T0` (R7). -/
def t0 : Cfg where
  rc := Vector.ofFn fun r => mul64 (BitVec.ofNat 64 (r.val + 1)) diffK
  sboxSh2 := 16
  sboxSh5 := 40
  sboxSh7 := 56
  sboxPos := fun m => ⟨8 * m.val, by omega⟩
  mixCore := t0MixCore
  mixK3 := lcgM1
  mixK6 := lcgM2
  mixFold := fun a f => a ^^^ f
  maxLen := none

theorem t0_pMixK : t0.PMixK := by unfold Cfg.PMixK; decide

theorem t0_pSboxSh : t0.PSboxSh := by unfold Cfg.PSboxSh; decide

end Sys2Proof.Machine
end

