-- ==== Sys2Proof/Laws/T0Digest.lean ====
section
/-! SUPPORT. The digest of one empty block under the test configuration `T0`, computed by the kernel: program G2 of
spec/95_test_vectors.md. It shows that `T0` has the property `P_EMPTY_BLOCK` of R6. The kernel computes it on a second form
of the S-Box, one number of 256 digits in base 256, which is proved here to agree with the table of bytes. -/

namespace Sys2Proof.Laws.T0Digest

open Sys2Proof.Machine

/-- Digit `k` of a number in base 256. -/
def digit (e k : Nat) : Nat := e / 256 ^ k % 256

theorem leNat_set (l : Bytes) (i : Nat) (b : Byte) (h : i < l.length) :
    leNat (l.set i b) + l[i].toNat * 256 ^ i = leNat l + b.toNat * 256 ^ i := by
  induction l generalizing i with
  | nil => simp at h
  | cons a l ih =>
    cases i with
    | zero => simp [leNat]; omega
    | succ i =>
      have := ih i (by simpa using h)
      simp only [List.set_cons_succ, leNat, List.getElem_cons_succ, Nat.pow_succ]
      linarith

theorem digit_leNat (l : Bytes) (k : Nat) (h : k < l.length) : digit (leNat l) k = l[k].toNat := by
  induction l generalizing k with
  | nil => simp at h
  | cons a l ih =>
    have ha := a.isLt
    cases k with
    | zero => simp [digit, leNat]; omega
    | succ k =>
      have := ih k (by simpa using h)
      have hd : (a.toNat + 256 * leNat l) / 256 = leNat l := by omega
      simp only [digit, leNat, List.getElem_cons_succ, Nat.pow_succ'] at *
      rw [← Nat.div_div_eq_div_mul, hd, this]

/-- A table as one number. -/
def tableNum (t : Table) : Nat := leNat t.toList

theorem digit_tableNum (t : Table) (k : Nat) (h : k < 256) : digit (tableNum t) k = t[k].toNat := by
  rw [tableNum, digit_leNat _ k (by simpa using h)]; simp

/-- `swapEntries` on the number. -/
def swapNum (e i j : Nat) : Nat :=
  e + digit e j * 256 ^ i + digit e i * 256 ^ j - digit e i * 256 ^ i - digit e j * 256 ^ j

theorem tableNum_set (t : Table) (i : Nat) (h : i < 256) (b : Byte) :
    tableNum (t.set i b) + t[i].toNat * 256 ^ i = tableNum t + b.toNat * 256 ^ i := by
  have := leNat_set t.toList i b (by simpa using h)
  simpa [tableNum, Vector.toList_set] using this

theorem tableNum_swap (t : Table) (i j : Fin 256) :
    tableNum (swapEntries t i j) = swapNum (tableNum t) i.val j.val := by
  have h1 := tableNum_set t i.val i.isLt t[j]
  have h2 := tableNum_set (t.set i t[j]) j.val j.isLt t[i]
  simp only [swapEntries, swapNum, digit_tableNum _ _ i.isLt, digit_tableNum _ _ j.isLt, Fin.getElem_fin] at *
  by_cases hij : i.val = j.val
  · have hv : ∀ h : j.val < 256, (t.set i.val t[j.val])[j.val] = t[j.val] := by intro h; simp [← hij]
    rw [hv] at h2
    omega
  · have hv : ∀ h : j.val < 256, (t.set i.val t[j.val])[j.val] = t[j.val] := by
      intro h; rw [Vector.getElem_set_ne _ _ hij]
    rw [hv] at h2
    omega

/-- One shuffle step on a number and a generator value. -/
def stepNum (m : Nat) (q : Nat × Nat) (i : Nat) : Nat × Nat :=
  let g := (q.2 * m + 1) % 2 ^ 64
  (swapNum q.1 i (g % (i + 1)), g)

/-- `Gen` as a pair of numbers. -/
def genNum (q : Gen) : Nat × Nat := (tableNum q.t, q.g.toNat)

theorem genNum_step (m : Word) (i : Fin 256) (q : Gen) :
    genNum (shuffleStep m 1#64 i q) = stepNum m.toNat (genNum q) i.val := by
  have hg : (add64 (mul64 q.g m) 1#64).toNat = (q.g.toNat * m.toNat + 1) % 2 ^ 64 := by
    simp [BitVec.toNat_add, BitVec.toNat_mul]
  simp only [genNum, shuffleStep, stepNum, tableNum_swap, partner, umod, hg]

theorem genNum_pass (m : Word) (q : Gen) (l : List (Fin 256)) :
    genNum (l.foldl (fun q i => shuffleStep m 1#64 i q) q)
      = (l.map Fin.val).foldl (stepNum m.toNat) (genNum q) := by
  induction l generalizing q with
  | nil => rfl
  | cons i l ih => simp only [List.foldl_cons, List.map_cons, ih, genNum_step]

/-- The number of the table `SUB` reads, as the byte a byte selects. -/
def lookupNum (e : Nat) (b : Byte) : Byte := BitVec.ofNat 8 (digit e b.toNat)

theorem lookup_eq (t : Table) (b : Byte) : lookup t b = lookupNum (tableNum t) b := by
  rw [lookupNum, digit_tableNum t b.toNat b.isLt]; simp [lookup]

/-- One round with the table given as a number. -/
def roundNum (c : Cfg) (e : Nat) (p : Bytes) (w : Words) (r : Nat) : Words :=
  diffWords r (Vector.ofFn fun i => le64 ((List.range 8).map fun j =>
    lookupNum e (byteOf (mixWords c (roundConst c r) p w)[i] j)))

theorem roundWords_eq (c : Cfg) (t : Table) (p : Bytes) : roundWords c t p = roundNum c (tableNum t) p := by
  funext w r
  simp only [roundWords, roundNum, subWords, subWord, lookup_eq]

/-- The first table of program G2 as a number (vector V-S5, read in base 256). -/
def tableG2 : Nat :=
  0x5bf38351db5fb0142c6b663423e4daf281d94ab189efe69fc615f78a6269689e397a2a9705cabf5df506ab940ad5c7b379271ee8ae3deb09f9cec4cb00ed46a25424f4b96d774efcdefb400e86e204ec3a4de3309d183b33fa352003e52ec9e9d8e7809cd3f17392c1dfe11161a342eec84148269864d63f2fa9bec01d167e60dca10da059b80c4495b44fcda77b43cc22d749c536ff7299a5fda6d2716737070f4c3c38ea586376fe91bb8785c21f96adaf7f7d9a02a42b65cf90bc013e7cd4ac1250d1190884bdf6b75c9b5e748ff0f85356e0c36f10b68e1aba31456ea88d5a211bd0131788756c57b22532b555dd8b0b28704b78938caa2d52826a29471c

theorem pass1_G2 : (passIndices.map Fin.val).foldl (stepNum lcgM1.toNat) (genNum ⟨identityTable, 0x80#64⟩) = (0x81bca9e1593cabdd89eb6b4a39b6c1c2b1220754e5d4d190b9000d748d6ebfde01aa7ddf9d929fa179238b78e9f7d3bd61483f0f6df35116fb86d2ba19e31ff8ff58211dcfdb4f02d806376675d7c5b4119663c3ca62d5a2c9f949b8d0263577dc658f2aa3a5fe6aa75b25c8418403cc7142b7572950cd9388f587ee95f10968d9fa67c49b157b97bbae7f83a6a86933ea2f85286f121310a036e83b9a462d99b2c75d04ace08c4ead2ce743b3e2c040532064f455ce704b4c3ab51e315f4727cb7c5e08af722bf64dda38e6457682188ed61b0e3205f06cef738aed5a30fc56e4982eb09c0a0bbe529eec60fd3d91807ac6245c94f2143e177e44a41a0c1c34, 0xa3ac6a8c899020db) := by
  decide +kernel

theorem pass2_G2 : (passIndices.map Fin.val).foldl (stepNum lcgM2.toNat) (0x81bca9e1593cabdd89eb6b4a39b6c1c2b1220754e5d4d190b9000d748d6ebfde01aa7ddf9d929fa179238b78e9f7d3bd61483f0f6df35116fb86d2ba19e31ff8ff58211dcfdb4f02d806376675d7c5b4119663c3ca62d5a2c9f949b8d0263577dc658f2aa3a5fe6aa75b25c8418403cc7142b7572950cd9388f587ee95f10968d9fa67c49b157b97bbae7f83a6a86933ea2f85286f121310a036e83b9a462d99b2c75d04ace08c4ead2ce743b3e2c040532064f455ce704b4c3ab51e315f4727cb7c5e08af722bf64dda38e6457682188ed61b0e3205f06cef738aed5a30fc56e4982eb09c0a0bbe529eec60fd3d91807ac6245c94f2143e177e44a41a0c1c34, 0xa3ac6a8c899020db) = (tableG2, 0xdb855bc2cc715f06) := by
  decide +kernel

theorem shuffle_eq (g : Word) :
    shuffle g = shufflePass lcgM2 lcgC2 (shufflePass lcgM1 lcgC1 ⟨identityTable, g⟩) := by
  unfold shuffle
  exact rfl

theorem genNum_shuffle (g : Word) : genNum (shuffle g) =
    (passIndices.map Fin.val).foldl (stepNum lcgM2.toNat)
      ((passIndices.map Fin.val).foldl (stepNum lcgM1.toNat) (genNum ⟨identityTable, g⟩)) :=
  (congrArg genNum (shuffle_eq g)).trans
    ((genNum_pass lcgM2 (shufflePass lcgM1 lcgC1 ⟨identityTable, g⟩) passIndices).trans
      (congrArg (fun q => (passIndices.map Fin.val).foldl (stepNum lcgM2.toNat) q)
        (genNum_pass lcgM1 ⟨identityTable, g⟩ passIndices)))

theorem shuffle_G2 : tableNum (shuffle 0x80#64).t = tableG2 := by
  have h := genNum_shuffle 0x80#64
  rw [pass1_G2, pass2_G2] at h
  simpa only [genNum] using congrArg Prod.fst h

theorem rounds_G2 : (List.range nRounds).foldl (roundNum t0 tableG2 (pad []))
    #v[0x80#64, 0#64, 0#64, 0#64, 0#64, 0#64, 0#64, 0#64] = #v[0x92f36887a1fc45ee#64, 0xf7c171b521da41c3#64, 0x94c85f907ba4ecc9#64, 0xe108f08f8d84b3a#64, 0x4d4959c42ecad429#64, 0x7941689107ab9e7#64, 0x96447665a14a8ce#64, 0x2018bf6f0c5aa6#64] := by
  decide +kernel

/-- Program G2: the digest of one empty block under `T0`. -/
theorem hash_empty_block : hashBlocks t0 [[]] =
    #v[0x92f36887a1fc45ee#64, 0xf7c171b521da41c3#64, 0x94c85f907ba4ecc9#64, 0xe108f08f8d84b3a#64, 0x4d4959c42ecad429#64, 0x7941689107ab9e7#64, 0x96447665a14a8ce#64, 0x2018bf6f0c5aa6#64] := by
  have hw : absorbWords (pad []) zeroWords = #v[0x80#64, 0#64, 0#64, 0#64, 0#64, 0#64, 0#64, 0#64] := by decide +kernel
  have hs : seedMix t0 (seedOf (absorbWords (pad []) zeroWords)) (pad []) = 0x80#64 := by decide +kernel
  simp only [hashBlocks, List.foldl_cons, List.foldl_nil, blockWords, permuteWords, sboxGen, hs, roundWords_eq, shuffle_G2]
  rw [hw]
  exact rounds_G2

/-- `T0` has the property `P_EMPTY_BLOCK` of R6. -/
theorem t0_pEmptyBlock : PEmptyBlock t0 := by
  unfold PEmptyBlock
  rw [hash_empty_block]
  decide

end Sys2Proof.Laws.T0Digest
end

