-- ==== Sys2Proof/Machine/Platform.lean ====
section
/-! DEFINITION. The configuration of the hardware: one record that has the named properties of R6, and of which nothing else
is known. -/

namespace Sys2Proof

/-- A configuration with the properties the source states of it (R6): `P_MIX_K`, `P_SBOX_SH`, `P_EMPTY_BLOCK`. `P_MIX_PURE`
is the type of the two fields. "Nothing else may be assumed." -/
structure ValidCfg where
  cfg         : Cfg
  pMixK       : cfg.PMixK
  pSboxSh     : cfg.PSboxSh
  pEmptyBlock : Machine.PEmptyBlock cfg

/-- `T0` has the three properties; it is the witness that they can be met, never the hardware's values (R7). -/
def t0Valid : ValidCfg := ⟨Machine.t0, Machine.t0_pMixK, Machine.t0_pSboxSh, Laws.T0Digest.t0_pEmptyBlock⟩

/-- FREE VALUE: the configuration the hardware was built with (R6, R192). It has no body: no proof can see more of it than
the three properties. -/
opaque Config.built [Inhabited ValidCfg] : ValidCfg

/-- The configuration every instruction uses. The witness handed over says only that such a configuration exists. -/
def Config.cfg : Cfg := (@Config.built ⟨t0Valid⟩).cfg

theorem Config.cfg_pMixK : Config.cfg.PMixK := (@Config.built ⟨t0Valid⟩).pMixK

theorem Config.cfg_pSboxSh : Config.cfg.PSboxSh := (@Config.built ⟨t0Valid⟩).pSboxSh

theorem Config.cfg_pEmptyBlock : Machine.PEmptyBlock Config.cfg := (@Config.built ⟨t0Valid⟩).pEmptyBlock

end Sys2Proof
end

