-- ==== Sys2Proof/Machine/State.lean ====
section
/-! DEFINITION. The state of one block (R20 to R31, R24) with the model's own fields for what passes between the block and
whoever issues its operations; the reasons to stop; the state after reset (R33, R190). -/

namespace Sys2Proof.Machine

/-- What a unit operation returns to the sequencer that issued it (R63). -/
inductive UnitResult where
  /-- `PAD`: the padded block -/
  | bytes (p : Bytes)
  /-- `SBOXGEN`: the 256 bytes -/
  | table (t : Table)
  /-- `MIX`, `SUB`: a 64-bit word -/
  | word (v : Word)
deriving DecidableEq, Repr

/-- The reasons the machine stops with a fault: none. "The core has no failure modes" (R170); nothing in this hardware is
treated as a fault (spec/93_implementation_defined.md). -/
inductive Fault where
deriving DecidableEq, Repr

/-- The reasons a command gets no meaning. A refusal changes no state and returns nothing (R171). -/
inductive Refusal where
  /-- An instruction the model has no meaning for yet; raised by a refused arm of `exec`, of which there is none. Safe. -/
  | notModelled (mnemonic : String)
  /-- R68: an op code outside the map, or an op code its issuer may not issue; raised by `step`. Safe: the spec's own refusal. -/
  | reservedOp
  /-- R172: a `BLOCK` longer than `Cfg.MAXLEN`; raised by `BLOCK`. Safe: the spec's own refusal. -/
  | blockTooLong
  /-- R142, U11: an `ABSORB` operand that is not whole chunks; raised by `ABSORB`. Safe: the spec gives no effect. -/
  | partialChunk
  /-- Operands that are not those R63 gives the operation; raised by `step` (log entry 8). Safe: no such command exists. -/
  | badOperands
  /-- A `BLOCK` whose `DATA` is not `LEN` bytes; raised by `step` (log entry 8). Safe: no such command exists. -/
  | lengthMismatch
deriving DecidableEq, Repr

/-- The state of one block. The first five fields are the spec's; `seq` is the spec's sequencer position (R24); the last
four are the model's own, for the interface (log entries 3, 4) and for the free values (log entry 2). -/
@[ext]
structure State where
  /-- `W[0..7]`, the State of R20. -/
  w           : Words
  /-- `T[0..255]`, the S-Box (R26). -/
  t           : Table
  /-- `P`, the padded-block buffer (R28), of the capacity R28 gives it. -/
  p           : Bytes
  /-- `g`, the generator word (R30). -/
  g           : Word
  /-- The 8 words `DIFF` holds while it runs (R31). -/
  diffCopy    : Words
  /-- The sequencer position (R24): the unit operations issued by the block's sequencers and not yet performed; none: idle. -/
  seq         : List Command
  /-- The commands the host has issued and that have not been taken yet, oldest first (R164). -/
  inbox       : List Command
  /-- The digests returned to the host, oldest first (R162). -/
  digests     : List Words
  /-- The values unit operations have returned to the sequencer, oldest first (R63). -/
  unitResults : List UnitResult
  /-- How many times a free value has been drawn; it numbers the free values of R28, R30, R31 and R34. -/
  tick        : Nat
deriving DecidableEq, Repr

/-- The block right after reset (R33, R190): `W` zero, idle; `T`, `P`, `g` and the diffusion copy unspecified, which is a
free value for each (log entry 1), the same for every instance (DESIGN CHOICE, log entry 21). Nothing has been issued and nothing
returned. -/
def State.reset : State where
  w := zeroWords
  t := Config.resetTable
  p := cutTo (bufferCapacity Config.cfg.maxLen) Config.resetBuffer
  g := Config.resetGen
  diffCopy := Config.resetCopy
  seq := []
  inbox := []
  digests := []
  unitResults := []
  tick := 0

end Sys2Proof.Machine
end

