-- ==== Sys2Proof/Machine/Ops.lean ====
section
/-! DEFINITION. The named operations over the state that the instructions share. There is no addressable memory (R47) and no
exception to take or to return from (R170, R175, R176). -/

namespace Sys2Proof.Machine

/-! ### Writing one piece of state -/

/-- `W[0..7] <- v`. -/
def State.writeWords (s : State) (v : Words) : State := { s with w := v }

/-- `T` and `g` as a run of `SBOXGEN` leaves them (R26, R30). -/
def State.writeGen (s : State) (q : Gen) : State := { s with t := q.t, g := q.g }

/-- A free value of the padded-block buffer; whatever it is, the buffer holds it (R28). -/
def freeBuffer (c : Cfg) (n : Nat) : Bytes := cutTo (bufferCapacity c.maxLen) (Config.staleBuffer n)

/-- `P`, written once, whole (R28). What the buffer holds where its capacity is exceeded the spec does not say: a free value
(log entry 17, and for several instances log entry 21). -/
def State.writeBuffer (s : State) (c : Cfg) (p : Bytes) : State :=
  { s with p := if holds (bufferCapacity c.maxLen) p then p else freeBuffer c s.tick, tick := s.tick + 1 }

/-- `P`, `T` and `g` discarded when a `BLOCK` completes (R28, R34, R30): any value from then on (U8; log entry 20). That
instances draw these values from one family, so that equal counters give equal values, is the model's choice (DESIGN CHOICE, log
entry 21). -/
def State.discard (s : State) (c : Cfg) : State :=
  { s with t := Config.staleTable s.tick, p := freeBuffer c s.tick, g := Config.staleGen s.tick, tick := s.tick + 1 }

/-- The diffusion copy once `DIFF` is done with it: its content is unspecified (R31; log entry 2, and for several instances log
entry 21). -/
def State.dropCopy (s : State) : State := { s with diffCopy := Config.staleCopy s.tick, tick := s.tick + 1 }

/-- A digest is returned to the host by value (R162). -/
def State.returnDigest (s : State) (d : Words) : State := { s with digests := s.digests ++ [d] }

/-- A unit operation's result is returned to the sequencer (R63). -/
def State.returnUnit (s : State) (r : UnitResult) : State := { s with unitResults := s.unitResults ++ [r] }

/-! ### The effects of the operations on the state, each for every configuration -/

/-- What `ABSORB P` does to the state (R142). -/
def State.absorb (s : State) (p : Bytes) : State := s.writeWords (absorbWords p s.w)

/-- What `SBOXGEN seed, B` does to the state (R80): it writes `T` and overwrites `g`. -/
def State.generate (s : State) (c : Cfg) (seed : Word) (b : Bytes) : State := s.writeGen (sboxGen c seed b)

/-- What `DIFF r` does to the state (R120, R121, R31). -/
def State.diffuse (s : State) (r : Nat) : State := (s.writeWords (diffWords r s.w)).dropCopy

/-- `MIX` on every word of the State, stored back (R132). -/
def State.mixAll (s : State) (c : Cfg) (rc : Word) (p : Bytes) : State := s.writeWords (mixWords c rc p s.w)

/-- `SUB` on every word of the State, stored back (R132). -/
def State.subAll (s : State) : State := s.writeWords (subWords s.t s.w)

/-- Round `r` of `PERMUTE` (R132). -/
def State.round (c : Cfg) (p : Bytes) (s : State) (r : Nat) : State :=
  ((s.mixAll c (roundConst c r) p).subAll).diffuse r

/-- What `PERMUTE P` does to the state (R130): seed, S-Box, rounds 0 to 23. -/
def State.permute (s : State) (c : Cfg) (p : Bytes) : State :=
  (List.range nRounds).foldl (State.round c p) (s.generate c (seedOf s.w) p)

/-- What `BLOCK B` does to the state once it is accepted (R144): `PAD`, `ABSORB`, `PERMUTE` on the padded block; then the
padded block, the S-Box and the generator word are discarded. -/
def State.blockStep (s : State) (c : Cfg) (b : Bytes) : State :=
  (((s.writeBuffer c (pad b)).absorb (pad b)).permute c (pad b)).discard c

end Sys2Proof.Machine
end

