-- ==== Sys2Proof/Machine/AbsorbPadder.lean ====
section
/-! DEFINITION. The instructions of absorb_padder: `PAD` (R140), `ABSORB` (R142), `BLOCK` (R144). -/

namespace Sys2Proof.Machine

/-- `PAD B` (R140): the padded block is written to `P` (R28; log entries 12, 17) and returned, whole. -/
def execPad (b : Bytes) (s : State) : Host.Outcome State Fault Refusal :=
  .next ((s.writeBuffer Config.cfg (pad b)).returnUnit (.bytes (pad b)))

/-- `ABSORB P` (R142). A length that is not a multiple of 8 has no meaning (R142; spec/93_implementation_defined.md U11:
treatment `refuse`). -/
def execAbsorb (p : Bytes) (s : State) : Host.Outcome State Fault Refusal :=
  if wholeChunks p then .next (s.absorb p) else .refused .partialChunk

/-- `BLOCK B` (R144): a block longer than `Cfg.MAXLEN` is refused before anything is read or written (R172). -/
def execBlock (data : Bytes) (s : State) : Host.Outcome State Fault Refusal :=
  if exceeds Config.cfg.maxLen data.length then .refused .blockTooLong else .next (s.blockStep Config.cfg data)

end Sys2Proof.Machine
end

