-- ==== Sys2Proof/Machine/BitMixer.lean ====
section
/-! DEFINITION. The instruction of bit_mixer: `MIX` (R100). -/

namespace Sys2Proof.Machine

/-- `MIX x, rc, B` (R100): the result is returned; no state of the block is read or written. -/
def execMix (x rc : Word) (b : Bytes) (s : State) : Host.Outcome State Fault Refusal :=
  .next (s.returnUnit (.word (mixWord Config.cfg x rc b)))

end Sys2Proof.Machine
end

