-- ==== Sys2Proof/Machine/ByteSub.lean ====
section
/-! DEFINITION. The instruction of byte_sub: `SUB` (R110). -/

namespace Sys2Proof.Machine

/-- `SUB w` (R110): the bytes of `w` looked up in `T` as `SBOXGEN` left it; no state of the block is written. -/
def execSub (w : Word) (s : State) : Host.Outcome State Fault Refusal :=
  .next (s.returnUnit (.word (subWord s.t w)))

end Sys2Proof.Machine
end

