-- ==== Sys2Proof/Machine/DiffusionMixer.lean ====
section
/-! DEFINITION. The instruction of diffusion_mixer: `DIFF` (R120). -/

namespace Sys2Proof.Machine

/-- `DIFF r` (R120, R121), for every natural number `r` (R65). -/
def execDiff (r : Nat) (s : State) : Host.Outcome State Fault Refusal := .next (s.diffuse r)

end Sys2Proof.Machine
end

