-- ==== Sys2Proof/Machine/HostCommands.lean ====
section
/-! DEFINITION. The host commands `INIT` (R160) and `DIGEST` (R162), and the pseudo-command `HASH` (R71). -/

namespace Sys2Proof.Machine

/-- `INIT` (R160): all 8 words become zero; `T`, `P` and `g` are not touched. -/
def execInit (s : State) : Host.Outcome State Fault Refusal := .next (s.writeWords zeroWords)

/-- `DIGEST` (R162): the 8 words are returned by value, word 0 first; the State is unchanged. -/
def execDigest (s : State) : Host.Outcome State Fault Refusal := .next (s.returnDigest s.w)

/-- `HASH B1, ..., Bn` (R71, R67): `INIT`, one `BLOCK` for each element in order, `DIGEST`. -/
def expandHash (blocks : List Bytes) : List Instr := .init :: (blocks.map .block ++ [.digest])

end Sys2Proof.Machine
end

