-- ==== Sys2Proof/Machine/PermEngine.lean ====
section
/-! DEFINITION. The instruction of perm_engine_24round: `PERMUTE` (R130), and the schedule of unit operations it issues
(R134). -/

namespace Sys2Proof.Machine

/-- `PERMUTE P` (R130), for a byte sequence of any length (R136). -/
def execPermute (p : Bytes) (s : State) : Host.Outcome State Fault Refusal := .next (s.permute Config.cfg p)

/-- One unit operation as the permutation engine issues it (R134). -/
inductive UnitStep where
  /-- `SBOXGEN` with the exclusive-or of the current words as seed (R131) -/
  | sboxgen
  /-- `W[i] <- MIX(W[i], RC[r mod 24], P)` -/
  | mix (r : Nat) (i : Fin 8)
  /-- `W[i] <- SUB(W[i])` -/
  | sub (i : Fin 8)
  /-- `DIFF r` -/
  | diff (r : Nat)
deriving DecidableEq, Repr

/-- The words of the State in order (R134). -/
def lanes : List (Fin 8) := [0, 1, 2, 3, 4, 5, 6, 7]

/-- The unit operations of round `r`: 8 `MIX`, 8 `SUB`, 1 `DIFF` (R134). -/
def roundSchedule (r : Nat) : List UnitStep := lanes.map (.mix r) ++ (lanes.map .sub ++ [.diff r])

/-- The unit operations of one `PERMUTE`, in the order of R134; they do not depend on the operands. -/
def permuteSchedule : List UnitStep := .sboxgen :: (List.range nRounds).flatMap roundSchedule

/-- One unit operation performed for the engine, its result stored back where R130 stores it. -/
def performUnit (c : Cfg) (p : Bytes) (s : State) : UnitStep → State
  | .sboxgen => s.generate c (seedOf s.w) p
  | .mix r i => s.writeWords (s.w.set i.val (mixWord c s.w[i] (roundConst c r) p))
  | .sub i => s.writeWords (s.w.set i.val (subWord s.t s.w[i]))
  | .diff r => s.diffuse r

end Sys2Proof.Machine
end

