-- ==== Sys2Proof/Machine/SboxGen.lean ====
section
/-! DEFINITION. The instruction of hash_sbox_gen: `SBOXGEN` (R80). -/

namespace Sys2Proof.Machine

/-- `SBOXGEN seed, B` (R80): the table is written to `T` and returned; `g` is overwritten. -/
def execSboxgen (seed : Word) (b : Bytes) (s : State) : Host.Outcome State Fault Refusal :=
  .next ((s.generate Config.cfg seed b).returnUnit (.table (sboxGen Config.cfg seed b).t))

end Sys2Proof.Machine
end

