-- ==== Sys2Proof/Machine/Dispatch.lean ====
section
/-! DEFINITION. The meaning of every instruction: one arm for each row of the op-code table (R62). -/

namespace Sys2Proof.Machine

def exec (i : Instr) (s : State) : Host.Outcome State Fault Refusal :=
  match i with
  | .init => Sys2Proof.Machine.execInit s
  | .block data => Sys2Proof.Machine.execBlock data s
  | .digest => Sys2Proof.Machine.execDigest s
  | .pad b => Sys2Proof.Machine.execPad b s
  | .absorb p => Sys2Proof.Machine.execAbsorb p s
  | .permute p => Sys2Proof.Machine.execPermute p s
  | .sboxgen seed b => Sys2Proof.Machine.execSboxgen seed b s
  | .mix x rc b => Sys2Proof.Machine.execMix x rc b s
  | .sub w => Sys2Proof.Machine.execSub w s
  | .diff r => Sys2Proof.Machine.execDiff r s

end Sys2Proof.Machine
end

