-- ==== Sys2Proof/Machine/Issue.lean ====
section
/-! DEFINITION. How an operation comes to be performed: who issued it (R61), where it is taken from, and whether it is
accepted (R68, R174). -/

namespace Sys2Proof.Machine

/-- Who issues operations (R61). -/
inductive Issuer where
  /-- the environment: it issues host commands -/
  | host
  /-- the block's own sequencers: they issue unit operations -/
  | sequencer
deriving DecidableEq, Repr

/-- R61: the host issues `H0` and `HB`; the sequencers issue `U`. -/
def Issuer.mayIssue : Issuer → Format → Bool
  | .host, f => f.isHost
  | .sequencer, f => !f.isHost

/-- The next operation, who issued it, and the state without it. A unit operation that the sequencers have issued comes
before the host's next command, since a command completes before the next is taken (R164). None: the block is idle. -/
def fetch (s : State) : Option (Issuer × Command × State) :=
  match s.seq with
  | c :: rest => some (.sequencer, c, { s with seq := rest })
  | [] =>
    match s.inbox with
    | c :: rest => some (.host, c, { s with inbox := rest })
    | [] => none

/-- The refusal a rejected command answers with. -/
def refusalOf : Reject → Refusal
  | .reservedOp => .reservedOp
  | .badOperands => .badOperands
  | .lengthMismatch => .lengthMismatch

/-- The command decoder at the boundary: `reserved_op` is decided from the op code and its issuer before the operands are
looked at (R68, R174). -/
def accept (who : Issuer) (c : Command) : Except Refusal Instr :=
  match lookupOp c.op with
  | none => .error .reservedOp
  | some row =>
    match who.mayIssue row.format with
    | false => .error .reservedOp
    | true =>
      match decodeOperands row.name c.operands with
      | .ok i => .ok i
      | .error e => .error (refusalOf e)

/-- The state with its next operation taken back unperformed: what a refused command leaves (R171, R175). -/
def State.withdraw (s : State) : State :=
  match fetch s with
  | some (_, _, rest) => rest
  | none => s

/-- The commands a list of instructions is issued as, behind those already issued. -/
def State.issue (s : State) (is : List Instr) : State := { s with inbox := s.inbox ++ is.map encode }

/-- The state with the command `c` as its next operation. A unit operation stands with the sequencers, in front of what they
have issued; any other with the host, in front of what it has issued and with the sequencers idle. -/
def State.placeNext (s : State) (c : Command) : State :=
  match lookupOp c.op with
  | some row => if row.format.isHost then { s with seq := [], inbox := c :: s.inbox } else { s with seq := c :: s.seq }
  | none => { s with seq := [], inbox := c :: s.inbox }

end Sys2Proof.Machine
end

