-- ==== Sys2Proof/Machine/Step.lean ====
section
/-! DEFINITION. One step: the next operation is taken, accepted and performed to completion (R48, R164). -/

namespace Sys2Proof.Machine

/-- One step. An idle block stays as it is until the host issues a command. -/
def step (s : State) : Host.Outcome State Fault Refusal :=
  match fetch s with
  | none => .next s
  | some (who, c, rest) =>
    match accept who c with
    | .error r => .refused r
    | .ok i => exec i rest

/-- The state with the op-code byte `w` and zero operands as its next operation. -/
def State.withFetchWord (s : State) (nbits w : Nat) : State :=
  s.placeNext (commandOfByte (BitVec.ofNat 8 (w % 2 ^ nbits)))

end Sys2Proof.Machine
end

