-- ==== Sys2Proof/Machine/System.lean ====
section
/-! DEFINITION. Several instances of the block side by side (R51, R181): each has a state of its own, and they share only the
configuration, which nothing writes. -/

namespace Sys2Proof.Machine

/-- One step of instance `k`; the others do not move. A number that names no instance leaves the system as it is (log entry 16).
The instances' unspecified contents come from the same free values, numbered by each instance's own counter: that two of them
with equal counters hold equal ones is the model's choice (DESIGN CHOICE, log entry 21), which the spec leaves open. -/
def stepInstance (k : Nat) (sys : List State) : Host.Outcome (List State) Fault Refusal :=
  match sys[k]? with
  | none => .next sys
  | some s =>
    match step s with
    | .next s' => .next (sys.set k s')
    | .fault f => .fault f
    | .refused r => .refused r

end Sys2Proof.Machine
end

