-- ==== Sys2Proof/Machine/Text.lean ====
section
/-! DEFINITION. The text syntax of command sequences (R70, R71) and the text form of a digest (R42), on lists of
characters. -/

namespace Sys2Proof.Machine

/-- A piece of a line. -/
inductive Token where
  | word (cs : List Char)
  | quoted (cs : List Char)
  | comma
deriving DecidableEq, Repr

/-- What the lexer is inside of; the characters so far, last first. -/
inductive LexMode where
  | blank
  | word (acc : List Char)
  | quote (acc : List Char)
deriving DecidableEq, Repr

/-- The quotation mark. -/
def quoteChar : Char := Char.ofNat 34

/-- Space and tab separate words. -/
def isBlankChar (c : Char) : Bool := c == ' ' || c == Char.ofNat 9

/-- The pieces of one line; a `#` outside quotation marks starts a comment to the end of the line (R70). Where R70 is silent
(DESIGN CHOICE, log entry 18), a word ends at a blank, a comma, a `#` or a quotation mark, so that no blank is needed between a
mnemonic and a quoted string: `BLOCK"abc"` is read as `BLOCK "abc"`. -/
def lex : LexMode → List Char → Option (List Token)
  | .blank, [] => some []
  | .word acc, [] => some [.word acc.reverse]
  | .quote _, [] => none
  | .blank, c :: cs =>
    if c = '#' then some []
    else if c = quoteChar then lex (.quote []) cs
    else if c = ',' then (lex .blank cs).map (.comma :: ·)
    else if isBlankChar c then lex .blank cs
    else lex (.word [c]) cs
  | .word acc, c :: cs =>
    if c = '#' then some [.word acc.reverse]
    else if c = quoteChar then (lex (.quote []) cs).map (.word acc.reverse :: ·)
    else if c = ',' then (lex .blank cs).map (.word acc.reverse :: .comma :: ·)
    else if isBlankChar c then (lex .blank cs).map (.word acc.reverse :: ·)
    else lex (.word (c :: acc)) cs
  | .quote acc, c :: cs =>
    if c = quoteChar then (lex .blank cs).map (.quoted acc.reverse :: ·) else lex (.quote (c :: acc)) cs

/-- A decimal digit. -/
def decDigit (c : Char) : Option Nat := if 48 ≤ c.toNat ∧ c.toNat ≤ 57 then some (c.toNat - 48) else none

/-- A hexadecimal digit, of either case. -/
def hexDigit (c : Char) : Option Nat :=
  if 48 ≤ c.toNat ∧ c.toNat ≤ 57 then some (c.toNat - 48)
  else if 97 ≤ c.toNat ∧ c.toNat ≤ 102 then some (c.toNat - 87)
  else if 65 ≤ c.toNat ∧ c.toNat ≤ 70 then some (c.toNat - 55)
  else none

/-- The number that digits stand for, most significant first. -/
def digitsValue (base : Nat) (digit : Char → Option Nat) : Nat → List Char → Option Nat
  | n, [] => some n
  | n, c :: cs => (digit c).bind fun d => digitsValue base digit (n * base + d) cs

/-- A decimal number: at least one digit. -/
def decimal (cs : List Char) : Option Nat := if cs.isEmpty then none else digitsValue 10 decDigit 0 cs

/-- Two hexadecimal digits for each byte, first byte first (R70). -/
def hexPairs : List Char → Option Bytes
  | [] => some []
  | [_] => none
  | a :: b :: cs =>
    match hexDigit a, hexDigit b, hexPairs cs with
    | some x, some y, some bs => some (BitVec.ofNat 8 (16 * x + y) :: bs)
    | _, _, _ => none

/-- `rep:<n>*<hh>` after its `rep:`: the count up to the `*`, then one byte (R70). -/
def repBytes (cs : List Char) : Option Bytes :=
  match decimal (cs.takeWhile (· != '*')), cs.dropWhile (· != '*') with
  | some n, ['*', a, b] => (hexPairs [a, b]).map fun bs => (List.replicate n bs).flatten
  | _, _ => none

/-- ASCII codes of the characters between quotation marks (R70). -/
def asciiBytes (cs : List Char) : Option Bytes :=
  if cs.all fun c => decide (c.toNat < 128) then some (cs.map fun c => BitVec.ofNat 8 c.toNat) else none

/-- `<bytes>`: a quoted string, `hex:` or `rep:` (R70). -/
def bytesOf : Token → Option Bytes
  | .quoted cs => asciiBytes cs
  | .word ('h' :: 'e' :: 'x' :: ':' :: cs) => hexPairs cs
  | .word ('r' :: 'e' :: 'p' :: ':' :: cs) => repBytes cs
  | _ => none

/-- A 64-bit value: `0x` and 16 hexadecimal digits (R70). -/
def word64 : Token → Option Word
  | .word ('0' :: 'x' :: cs) =>
    if cs.length = 16 then (digitsValue 16 hexDigit 0 cs).map (BitVec.ofNat 64) else none
  | _ => none

/-- A list of `<bytes>` with commas between them, possibly empty (R71). -/
def bytesList : List Token → Option (List Bytes)
  | [] => some []
  | [tok] => (bytesOf tok).map fun b => [b]
  | tok :: .comma :: next :: rest =>
    match bytesOf tok, bytesList (next :: rest) with
    | some b, some bs => some (b :: bs)
    | _, _ => none
  | _ => none

/-- The instruction a line's pieces stand for. `ABSORB` and `PERMUTE` are written without an operand (R70): they take the
padded-block buffer, given here as `p` (log entry 11). -/
def instrsOf (p : Bytes) : List Token → Option (List Instr)
  | [] => some []
  | [.word ['I', 'N', 'I', 'T']] => some [.init]
  | [.word ['D', 'I', 'G', 'E', 'S', 'T']] => some [.digest]
  | [.word ['A', 'B', 'S', 'O', 'R', 'B']] => some [.absorb p]
  | [.word ['P', 'E', 'R', 'M', 'U', 'T', 'E']] => some [.permute p]
  | [.word ['B', 'L', 'O', 'C', 'K'], a] => (bytesOf a).map fun b => [.block b]
  | [.word ['P', 'A', 'D'], a] => (bytesOf a).map fun b => [.pad b]
  | [.word ['S', 'U', 'B'], a] => (word64 a).map fun w => [.sub w]
  | [.word ['D', 'I', 'F', 'F'], .word n] => (decimal n).map fun r => [.diff r]
  | [.word ['S', 'B', 'O', 'X', 'G', 'E', 'N'], s, .comma, a] =>
    (word64 s).bind fun seed => (bytesOf a).map fun b => [.sboxgen seed b]
  | [.word ['M', 'I', 'X'], x, .comma, k, .comma, a] =>
    (word64 x).bind fun vx => (word64 k).bind fun rc => (bytesOf a).map fun b => [.mix vx rc b]
  | .word ['H', 'A', 'S', 'H'] :: rest => (bytesList rest).map expandHash
  | _ => none

/-- One line of text: the instructions it stands for, none for a blank line or a comment, several for `HASH`; no value for
a line that is not in the syntax. -/
def parseLine (p : Bytes) (line : List Char) : Option (List Instr) := (lex .blank line).bind (instrsOf p)

/-- The lower-case hexadecimal digit of a number below 16. -/
def hexChar (n : Nat) : Char := if n < 10 then Char.ofNat (48 + n) else Char.ofNat (87 + n)

/-- A byte sequence as text: two lower-case digits for each byte, first byte first. -/
def hexText : Bytes → List Char
  | [] => []
  | b :: bs => hexChar (b.toNat / 16) :: hexChar (b.toNat % 16) :: hexText bs

/-- A word as 16 lower-case hexadecimal digits, most significant first (R42). -/
def wordText (w : Word) : List Char := hexText ((List.range 8).map fun j => byteOf w (7 - j))

/-- The text form of a digest: each of the 8 words as 16 digits, in word order, no separators (R42). -/
def digestText (d : Words) : List Char := d.toList.flatMap wordText

end Sys2Proof.Machine
end

