-- ==== Sys2Proof/Safety.lean ====
section
/-! DEFINITION. The terms the statements use: safe steps, the properties the spec states of the hidden state, what the host
can see, the host's proper commands. -/

namespace Sys2Proof.Machine

/-- A step is safe where it answers a next state. -/
def SafeStep (s : State) : Prop := ∃ t, step s = .next t

/-- An S-Box is a bijection on the byte values (R26, R27). -/
def IsBijection (t : Table) : Prop := Function.Bijective (lookup t)

/-- An S-Box of which the spec says nothing: what reset left (R33), or what a completed `BLOCK` left (R34, U8). -/
def TableUnspecified (t : Table) : Prop := t = Config.resetTable ∨ ∃ n, t = Config.staleTable n

/-- `T` is unspecified or a bijection (R27). -/
def TableOk (s : State) : Prop := TableUnspecified s.t ∨ IsBijection s.t

/-- A byte sequence within the capacity of the padded-block buffer, `Cfg.MAXLEN` rounded up to the next multiple of 8 above it
where that is a number (R28). -/
def HeldByBuffer (p : Bytes) : Prop := ∀ m, Config.cfg.maxLen = some m → p.length ≤ 8 * (m / 8 + 1)

/-- A buffer of which the spec says nothing: what reset left (R33), what a completed `BLOCK` left (R28, U8), or what a `PAD`
beyond the capacity left. -/
def BufferUnspecified (p : Bytes) : Prop :=
  p = cutTo (bufferCapacity Config.cfg.maxLen) Config.resetBuffer ∨ ∃ n, p = freeBuffer Config.cfg n

/-- `P` is unspecified or a sequence whose length is a positive multiple of 8, and never exceeds its capacity (R28). -/
def BufferOk (s : State) : Prop :=
  (BufferUnspecified s.p ∨ (0 < s.p.length ∧ s.p.length % 8 = 0)) ∧ HeldByBuffer s.p

/-- The invariant of the hidden state. -/
def HiddenOk (s : State) : Prop := TableOk s ∧ BufferOk s

/-- The block is idle but for what the host has issued (R24, R33). -/
def SequencerIdle (s : State) : Prop := s.seq = []

/-- Two states look alike to the host: the same State words, commands issued and digests returned, the sequencers idle. `T`,
`P`, `g`, the diffusion copy and what unit operations returned may differ. -/
def SameToHost (s t : State) : Prop :=
  s.w = t.w ∧ s.inbox = t.inbox ∧ s.digests = t.digests ∧ SequencerIdle s ∧ SequencerIdle t

/-- Two outcomes look alike to the host. -/
def SameOutcomeToHost : Host.Outcome State Fault Refusal → Host.Outcome State Fault Refusal → Prop
  | .next s, .next t => SameToHost s t
  | .refused r, .refused q => r = q
  | .fault f, .fault e => f = e
  | .next _, .refused _ => False
  | .next _, .fault _ => False
  | .refused _, .next _ => False
  | .refused _, .fault _ => False
  | .fault _, .next _ => False
  | .fault _, .refused _ => False

/-- A block the hardware buffers (R172). -/
def Fits (b : Bytes) : Prop := exceeds Config.cfg.maxLen b.length = false

/-- The host's commands that nothing refuses: `INIT`, `DIGEST`, and `BLOCK` of a block that fits (R171). -/
def ProperHostCommand : Instr → Prop
  | .init => True
  | .block b => Fits b
  | .digest => True
  | .pad _ => False
  | .absorb _ => False
  | .permute _ => False
  | .sboxgen _ _ => False
  | .mix _ _ _ => False
  | .sub _ => False
  | .diff _ => False

end Sys2Proof.Machine
end

