-- ==== Sys2Proof/Certificates/Slice0/Obligations.lean ====
section
/-! DEFINITION. The statements about the model, for the provers. -/

open Sys2Proof Sys2Proof.Machine

/-! ### Encoding -/

/-- The ten rows of the op-code map as R62 prints them, and no other byte is in it. The codes are the spec's own choice
(spec/92_eei_decisions.md D2). -/
def Obligations.OpcodeMapIsAsPrinted : Prop :=
  lookupOp 0x01 = some ⟨0x01, .init, .h0⟩ ∧ lookupOp 0x02 = some ⟨0x02, .block, .hb⟩
    ∧ lookupOp 0x03 = some ⟨0x03, .digest, .h0⟩ ∧ lookupOp 0x10 = some ⟨0x10, .pad, .u⟩
    ∧ lookupOp 0x11 = some ⟨0x11, .absorb, .u⟩ ∧ lookupOp 0x20 = some ⟨0x20, .permute, .u⟩
    ∧ lookupOp 0x30 = some ⟨0x30, .sboxgen, .u⟩ ∧ lookupOp 0x40 = some ⟨0x40, .mix, .u⟩
    ∧ lookupOp 0x50 = some ⟨0x50, .sub, .u⟩ ∧ lookupOp 0x60 = some ⟨0x60, .diff, .u⟩
    ∧ ∀ b : Byte, b.toNat ∉ [0x01, 0x02, 0x03, 0x10, 0x11, 0x20, 0x30, 0x40, 0x50, 0x60] → lookupOp b = none

/-- Words written out from R60, R62 and R63, one for each unit and for the host commands, and what they stand for. -/
def Obligations.WrittenOutWordsDecode : Prop :=
  decode ⟨0b00000001, []⟩ = .ok .init
    ∧ decode ⟨0b00000010, [.nat 3, .bytes [0x61, 0x62, 0x63]]⟩ = .ok (.block [0x61, 0x62, 0x63])
    ∧ decode ⟨0b00000011, []⟩ = .ok .digest
    ∧ decode ⟨0b00010000, [.bytes [0x61]]⟩ = .ok (.pad [0x61])
    ∧ decode ⟨0b00010001, [.bytes []]⟩ = .ok (.absorb [])
    ∧ decode ⟨0b00100000, [.bytes [0x80]]⟩ = .ok (.permute [0x80])
    ∧ decode ⟨0b00110000, [.word 1, .bytes []]⟩ = .ok (.sboxgen 1 [])
    ∧ decode ⟨0b01000000, [.word 1, .word 2, .bytes [3]]⟩ = .ok (.mix 1 2 [3])
    ∧ decode ⟨0b01010000, [.word 0x0123456789ABCDEF]⟩ = .ok (.sub 0x0123456789ABCDEF)
    ∧ decode ⟨0b01100000, [.nat 23]⟩ = .ok (.diff 23)

/-- R60 to R64: a command means an instruction exactly where it is that instruction's encoding; so decoding what was encoded
gives the instruction back with every operand, and no second command means it. -/
def Obligations.DecodeInvertsEncode : Prop :=
  ∀ (c : Command) (i : Instr), decode c = .ok i ↔ c = encode i

/-- A `BLOCK` line with `hex:` and two digits for each byte, first byte first, is read as that block, whatever the padded-block
buffer holds. The text syntax of R70 is the spec's own choice (D18). -/
def Obligations.HexBlockLineIsReadBack : Prop :=
  ∀ p b : Bytes,
    parseLine p (['B', 'L', 'O', 'C', 'K', ' ', 'h', 'e', 'x', ':'] ++ hexText b) = some [.block b]

/-! ### Arithmetic -/

/-- R12: addition, subtraction and multiplication are the exact results modulo 2^64. -/
def Obligations.ArithmeticWraps : Prop :=
  ∀ a b : Word,
    (add64 a b).toNat = (a.toNat + b.toNat) % 2 ^ 64
      ∧ ((sub64 a b).toNat : Int) = ((a.toNat : Int) - b.toNat) % 2 ^ 64
      ∧ (mul64 a b).toNat = (a.toNat * b.toNat) % 2 ^ 64

/-- A left shift inside 64 bits drops the bits moved past bit 63: the reading R14 makes of the source's word "shifted" (D7). -/
def Obligations.ShiftDropsHighBits : Prop :=
  ∀ (v : Word) (n : Fin 64), (shl64 v n).toNat = v.toNat * 2 ^ n.val % 2 ^ 64

/-- Bit `k` of a word rotated left by `n` is bit `k - n` modulo 64 of the word; rotating right by `n` is rotating left by
`64 - n` modulo 64: R13, a definition the spec supplies and an inference it marks as its own. -/
def Obligations.RotationMovesBits : Prop :=
  ∀ (v : Word) (n : Nat), n < 64 →
    (∀ k, k < 64 → (rotl64 v n).getLsbD k = v.getLsbD ((k + 64 - n) % 64))
      ∧ rotr64 v n = rotl64 v ((64 - n) % 64)

/-- R10: byte `j` of `LE64` of 8 bytes is byte `j` of the sequence. -/
def Obligations.LittleEndianBytes : Prop :=
  ∀ bs : Bytes, bs.length = 8 → ∀ (j : Nat) (h : j < bs.length), (le64 bs).extractLsb' (8 * j) 8 = bs[j]

/-! ### A step -/

/-- A step performs the decoded instruction. The sequencers' next unit operation comes first; with none, the host's next
command; with neither, the block stays as it is. Where the operations stand and the idle step are the model's choice (log
entries 3, 4 and 5). -/
def Obligations.StepRunsDecodedInstruction : Prop :=
  (∀ (s : State) (c : Command) (rest : List Command) (i : Instr),
    s.seq = c :: rest → decode c = .ok i → i.isHost = false → step s = exec i { s with seq := rest })
  ∧ (∀ (s : State) (c : Command) (rest : List Command) (i : Instr),
    s.seq = [] → s.inbox = c :: rest → decode c = .ok i → i.isHost = true → step s = exec i { s with inbox := rest })
  ∧ (∀ s : State, s.seq = [] → s.inbox = [] → step s = .next s)

/-- With the sequencers idle, the host's next command with an op code other than 0x01, 0x02, 0x03 is refused whatever its
operands (so also the op code of a unit operation); R68 is the spec's own choice (D4). What a refused command leaves, the
command itself taken back and every other piece of state as it was (R171, R175), is `withdraw`: that form is the model's
choice, since a refused step carries no state (log entry 15). -/
def Obligations.ReservedOpCodesAreRefused : Prop :=
  ∀ (s : State) (c : Command) (rest : List Command),
    s.seq = [] → s.inbox = c :: rest → c.op.toNat ≠ 1 → c.op.toNat ≠ 2 → c.op.toNat ≠ 3 →
      step s = .refused .reservedOp ∧ s.withdraw = { s with inbox := rest }

/-- With the sequencers idle, an encoded instruction issued by the host is refused for its op code or for its length, exactly where R68 and R172 say,
and for nothing else (R171; the two refusals are the spec's own choice, D4 and D5). -/
def Obligations.TwoRefusalsOnly : Prop :=
  ∀ (s : State) (i : Instr) (rest : List Command) (r : Refusal),
    s.seq = [] → s.inbox = encode i :: rest →
      (step s = .refused r ↔
        (r = .reservedOp ∧ i.isHost = false) ∨ (r = .blockTooLong ∧ ∃ b, i = .block b ∧ ¬ Fits b))

/-- With the sequencers idle, `INIT`, `DIGEST` and a `BLOCK` that fits complete, each before the next command is taken (R164, and the inference at the
end of R171). -/
def Obligations.ProperHostCommandsComplete : Prop :=
  ∀ (s : State) (i : Instr) (rest : List Command),
    s.seq = [] → s.inbox = encode i :: rest → ProperHostCommand i →
      ∃ t, step s = .next t ∧ t.seq = [] ∧ t.inbox = rest

/-! ### The instructions: result and frame -/

/-- R160: `INIT` makes the 8 words zero and touches nothing else; twice is the same as once. -/
def Obligations.InitZeroesWords : Prop :=
  ∀ s : State,
    exec .init s = .next { s with w := #v[0, 0, 0, 0, 0, 0, 0, 0] }
      ∧ exec .init { s with w := #v[0, 0, 0, 0, 0, 0, 0, 0] } = .next { s with w := #v[0, 0, 0, 0, 0, 0, 0, 0] }

/-- `DIGEST` returns the 8 words by value and changes nothing; a second `DIGEST` returns the same words again (R162; that the
State stays is the spec's own choice, D15; that the digest stands in the field `digests` is the model's, log entry 3). -/
def Obligations.DigestReturnsWords : Prop :=
  ∀ s : State,
    exec .digest s = .next { s with digests := s.digests ++ [s.w] }
      ∧ exec .digest { s with digests := s.digests ++ [s.w] } = .next { s with digests := s.digests ++ [s.w] ++ [s.w] }

/-- `PAD B` gives `B`, then 0x80, then `z` zero bytes, `z = (8 - ((|B| + 1) mod 8)) mod 8` (R140), whole, whatever its length.
The model's choices: the result is returned to the sequencer in `unitResults` (log entry 4), and written to the buffer `P`
(R28; log entry 12), which holds it where its capacity allows, and holds an unspecified sequence within its capacity where it
does not (log entry 17); the counter of the free values moves on (log entry 2). Nothing else changes. -/
def Obligations.PadAppendsMarkAndZeros : Prop :=
  ∀ (b : Bytes) (s : State),
    let p := b ++ [0x80#8] ++ List.replicate ((8 - (b.length + 1) % 8) % 8) 0x00#8
    ∃ (q : Bytes) (n : Nat),
      exec (.pad b) s = .next { s with p := q, unitResults := s.unitResults ++ [.bytes p], tick := n }
        ∧ (HeldByBuffer p → q = p) ∧ HeldByBuffer q

/-- The length law of `PAD` (R141), and that `PAD` is injective, an inference R141 marks as its own. -/
def Obligations.PadLengthAndInjectivity : Prop :=
  (∀ b : Bytes, (pad b).length = 8 * (b.length / 8 + 1) ∧ b ++ [0x80#8] <+: pad b) ∧ Function.Injective pad

/-- R142: from a sequence of whole chunks `ABSORB` exclusive-ors into word `m`, in index order, every chunk whose index is `m`
modulo 8, each read little-endian, and changes nothing else. -/
def Obligations.AbsorbXorsChunksModuloEight : Prop :=
  ∀ (p : Bytes) (s : State), p.length % 8 = 0 →
    ∃ v : Words, exec (.absorb p) s = .next { s with w := v }
      ∧ ∀ m : Fin 8, v[m] = ((List.range (p.length / 8)).filter fun k => k % 8 = m.val).foldl
          (fun acc k => acc ^^^ le64 ((p.drop (8 * k)).take 8)) s.w[m]

/-- `ABSORB` of a sequence that is not whole chunks is refused: the model's choice (log entry 9), after
spec/93_implementation_defined.md U11. -/
def Obligations.AbsorbOfPartialChunkIsRefused : Prop :=
  ∀ (p : Bytes) (s : State), p.length % 8 ≠ 0 → exec (.absorb p) s = .refused .partialChunk

/-- Absorbing a padded block of at most 7 bytes touches word 0 only, and exclusive-ors the block with its mark into it: an
inference R145 marks as its own. -/
def Obligations.ShortBlockTouchesWordZero : Prop :=
  ∀ (b : Bytes) (s : State), b.length ≤ 7 →
    ∃ v : Words, exec (.absorb (pad b)) s = .next { s with w := v }
      ∧ v[0] = s.w[0] ^^^ le64 (pad b) ∧ ∀ m : Fin 8, m ≠ 0 → v[m] = s.w[m]

/-- `MIX` returns the core's value for at most 6 bytes, and from 7 bytes on that value joined with the fold of bytes 3 and 6
(R100, R101; that the fold comes after the core is the spec's own choice, D11); nothing else changes. -/
def Obligations.MixAppliesCoreThenFold : Prop :=
  ∀ (x rc : Word) (b : Bytes) (s : State),
    (b.length ≤ 6 →
      exec (.mix x rc b) s = .next { s with unitResults := s.unitResults ++ [.word (Config.cfg.mixCore x rc)] })
    ∧ (∀ h : 6 < b.length,
      exec (.mix x rc b) s = .next { s with unitResults := s.unitResults ++ [.word
        (Config.cfg.mixFold (Config.cfg.mixCore x rc)
          (((b[3].setWidth 64 * Config.cfg.mixK3) ^^^ (b[6].setWidth 64 * Config.cfg.mixK6)).rotateLeft 13))] })

/-- From R104: `MIX` sees of the byte sequence only whether it has more than 6 bytes, and then bytes 3 and 6. -/
def Obligations.MixSeesTwoBytes : Prop :=
  ∀ (x rc : Word) (a b : Bytes) (s : State),
    (6 < a.length ↔ 6 < b.length) → (6 < a.length → a[3]? = b[3]? ∧ a[6]? = b[6]?) →
      exec (.mix x rc a) s = exec (.mix x rc b) s

/-- `SUB` returns the word whose byte `j` is the table entry selected by byte `j` (R110; that bytes keep their places is the
spec's own choice, D12); nothing else changes. -/
def Obligations.SubLooksUpEachByte : Prop :=
  ∀ (w : Word) (s : State),
    ∃ v : Word, exec (.sub w) s = .next { s with unitResults := s.unitResults ++ [.word v] }
      ∧ ∀ j, j < 8 → v.extractLsb' (8 * j) 8 = s.t[(w.extractLsb' (8 * j) 8).toNat]'(BitVec.isLt _)

/-- With a bijective table `SUB` is a bijection on words: an inference R111 marks as its own. -/
def Obligations.SubIsBijective : Prop :=
  ∀ t : Table, IsBijection t → Function.Bijective (subWord t)

/-- Each new word of `DIFF` is the old word with its four neighbour terms, all read from the words before the step (R120, R121;
that the old word takes part is the spec's own choice, D13). Beside the 8 words only the diffusion copy and the counter of its
free values change (R31, log entry 2); the statement holds for every value of both. -/
def Obligations.DiffReadsPreStepWords : Prop :=
  ∀ (r : Nat) (s : State),
    ∃ (v d : Words) (n : Nat), exec (.diff r) s = .next { s with w := v, diffCopy := d, tick := n }
      ∧ ∀ i : Fin 8, v[i] = s.w[i]
        ^^^ (wordAt s.w (i.val + 7)).rotateLeft ((r + 2 * i.val) % 64)
        ^^^ (wordAt s.w (i.val + 1)).rotateRight ((r + 3 * i.val) % 64)
        ^^^ (wordAt s.w (i.val + 4)).rotateLeft 11
        ^^^ (wordAt s.w (i.val + 3) * 0x9E3779B97F4A7C15#64).rotateLeft ((r + 5 * i.val) % 64)

/-- Two rounds that are equal modulo 64 give the same `DIFF` (R65, the spec's own choice D23; R122). -/
def Obligations.DiffSeesRoundModulo64 : Prop :=
  ∀ (r q : Nat) (s : State), r % 64 = q % 64 → exec (.diff r) s = exec (.diff q) s

/-- The all-zero State stays all-zero under `DIFF r` for every `r`: an inference R122 marks as its own. -/
def Obligations.DiffKeepsZeroState : Prop :=
  ∀ (r : Nat) (s : State), s.w = #v[0, 0, 0, 0, 0, 0, 0, 0] → ∃ t, exec (.diff r) s = .next t ∧ t.w = s.w

/-- The two branches of seed mixing, for every configuration (R81; that a byte is moved up by a left shift is the spec's own
choice, D7 and D8). -/
def Obligations.SeedMixingBranches : Prop :=
  ∀ (c : Cfg) (seed : Word) (b : Bytes),
    (∀ h : 7 < b.length, seedMix c seed b = seed ^^^ (b[2].setWidth 64 <<< c.sboxSh2.val)
      ^^^ (b[5].setWidth 64 <<< c.sboxSh5.val) ^^^ (b[7].setWidth 64 <<< c.sboxSh7.val))
    ∧ (b.length ≤ 7 → seedMix c seed b = (List.range b.length).foldl
        (fun s k => s ^^^ ((b.getD k 0).setWidth 64 <<< (c.sboxPos (Fin.ofNat 8 (k % 8))).val)) seed)

/-- R80, R82, R84, and R83 with the spec's own choices D9 (the generator starts at the mixed seed) and D10 (it is advanced
before the partner is taken from its 64 bits): `SBOXGEN` runs 510 steps from the identity table and the mixed seed. Step `k` advances the generator,
takes the partner of index `i` from the new value modulo `i + 1`, and exchanges two entries; the second pass goes on from
the table and the generator the first left. The last table is written to `T` and returned; that the last generator value then
stays in `g`, and the table in `T`, is the model's reading (log entry 10), for U8 leaves them at any value between operations.
Nothing else changes. -/
def Obligations.SboxgenRunsTwoPasses : Prop :=
  ∀ (seed : Word) (b : Bytes) (s : State),
    ∃ (T : Nat → Table) (G : Nat → Word),
      exec (.sboxgen seed b) s =
          .next { s with t := T 510, g := G 510, unitResults := s.unitResults ++ [.table (T 510)] }
      ∧ (∀ a : Byte, lookup (T 0) a = a) ∧ G 0 = seedMix Config.cfg seed b
      ∧ ∀ k, k < 510 →
          let i := if k < 255 then 255 - k else 510 - k
          let j := (G (k + 1)).toNat % (i + 1)
          G (k + 1) = G k * (if k < 255 then 6364136223846793005#64 else 1442695040888963407#64) + 1
          ∧ ∀ a : Byte, lookup (T (k + 1)) a =
              if a.toNat = i then lookup (T k) (BitVec.ofNat 8 j)
              else if a.toNat = j then lookup (T k) (BitVec.ofNat 8 i) else lookup (T k) a

/-- `SBOXGEN` always leaves a bijection (R85), and depends on its operands only through the mixed seed (an inference R85 marks
as its own). -/
def Obligations.SboxgenLeavesBijection : Prop :=
  (∀ (seed : Word) (b : Bytes) (s : State), ∃ t, exec (.sboxgen seed b) s = .next t ∧ IsBijection t.t)
  ∧ ∀ (seed seed' : Word) (b b' : Bytes) (s : State),
      seedMix Config.cfg seed b = seedMix Config.cfg seed' b' → exec (.sboxgen seed b) s = exec (.sboxgen seed' b') s

/-- From R86: of a sequence of more than 7 bytes only bytes 2, 5 and 7 enter `SBOXGEN`. -/
def Obligations.SboxgenSeesThreeBytes : Prop :=
  ∀ (seed : Word) (a b : Bytes) (s : State), 7 < a.length → 7 < b.length →
    a[2]? = b[2]? → a[5]? = b[5]? → a[7]? = b[7]? → exec (.sboxgen seed a) s = exec (.sboxgen seed b) s

/-- `PERMUTE` makes the S-Box from the exclusive-or of the words at entry, then runs rounds 0 to 23; round `r` mixes every word
with `RC[r]`, substitutes every word, and diffuses with `r` (R130 to R133). Beside the words only `T`, `g`, the diffusion copy
and the counter of the free values change; that `T` and `g` then keep what `SBOXGEN` left is the model's reading (log entry 10),
and so are the free diffusion copy and its counter (log entry 2). -/
def Obligations.PermuteRuns24Rounds : Prop :=
  ∀ (p : Bytes) (s : State),
    ∃ (W : Nat → Words) (q : Gen) (d : Words) (n : Nat),
      exec (.permute p) s = .next { s with w := W 24, t := q.t, g := q.g, diffCopy := d, tick := n }
      ∧ W 0 = s.w
      ∧ q = sboxGen Config.cfg
          (s.w[0] ^^^ s.w[1] ^^^ s.w[2] ^^^ s.w[3] ^^^ s.w[4] ^^^ s.w[5] ^^^ s.w[6] ^^^ s.w[7]) p
      ∧ ∀ r : Fin 24, ∃ v : Words,
          (∀ i : Fin 8, v[i] = subWord q.t (mixWord Config.cfg (W r.val)[i] Config.cfg.rc[r] p))
          ∧ ∀ i : Fin 8, (W (r.val + 1))[i] = diffWord r.val v i.val

/-- From R86 and R104: `PERMUTE` of a sequence of more than 7 bytes sees of it only bytes 2, 3, 5, 6 and 7. -/
def Obligations.PermuteSeesFiveBytes : Prop :=
  ∀ (a b : Bytes) (s : State), 7 < a.length → 7 < b.length →
    a[2]? = b[2]? → a[3]? = b[3]? → a[5]? = b[5]? → a[6]? = b[6]? → a[7]? = b[7]? →
      exec (.permute a) s = exec (.permute b) s

/-- R134: the schedule of one `PERMUTE`, the same for every operand and State: the `SBOXGEN` with its seed, then for each round
8 `MIX` (words 0 to 7), 8 `SUB` (words 0 to 7) and 1 `DIFF`; 409 unit operations, of them 192 `MIX`, 192 `SUB`, 24 `DIFF`. -/
def Obligations.PermuteScheduleIsFixed : Prop :=
  permuteSchedule = .sboxgen :: (List.range 24).flatMap (fun r =>
      [.mix r 0, .mix r 1, .mix r 2, .mix r 3, .mix r 4, .mix r 5, .mix r 6, .mix r 7,
       .sub 0, .sub 1, .sub 2, .sub 3, .sub 4, .sub 5, .sub 6, .sub 7, .diff r])
    ∧ permuteSchedule.length = 409
    ∧ (permuteSchedule.filter fun u => match u with | .sboxgen => true | .mix _ _ => false | .sub _ => false | .diff _ => false).length = 1
    ∧ (permuteSchedule.filter fun u => match u with | .sboxgen => false | .mix _ _ => true | .sub _ => false | .diff _ => false).length = 192
    ∧ (permuteSchedule.filter fun u => match u with | .sboxgen => false | .mix _ _ => false | .sub _ => true | .diff _ => false).length = 192
    ∧ (permuteSchedule.filter fun u => match u with | .sboxgen => false | .mix _ _ => false | .sub _ => false | .diff _ => true).length = 24

/-- Performing the scheduled unit operations one by one, each result stored back before the next is issued, is
`PERMUTE` (R130, R134). -/
def Obligations.ScheduleRefinesPermute : Prop :=
  ∀ (p : Bytes) (s : State), exec (.permute p) s = .next (permuteSchedule.foldl (performUnit Config.cfg p) s)

/-- From R144: a `BLOCK` that no bound shuts out (R172) is `PAD`, `ABSORB` and `PERMUTE` performed one after the other, the last
two on the padded block, after which the padded block, the S-Box and the generator word are discarded (R28, R34): `P`, `T` and
`g` are left at any value, `P` within its capacity. That they are free values, drawn by the counter, is the model's choice (log
entries 2 and 20), and so is that what `PAD` returns stays inside the block (log entry 4). -/
def Obligations.BlockIsPadAbsorbPermute : Prop :=
  ∀ (b : Bytes) (s : State), (∀ m, Config.cfg.maxLen = some m → b.length ≤ m) →
    ∃ (s1 s2 s3 : State) (t : Table) (p : Bytes) (g : Word) (n : Nat),
      exec (.pad b) s = .next s1 ∧ s1.p = pad b ∧ exec (.absorb s1.p) s1 = .next s2 ∧ exec (.permute s1.p) s2 = .next s3
      ∧ exec (.block b) s = .next { s3 with t := t, p := p, g := g, unitResults := s.unitResults, tick := n }
      ∧ HeldByBuffer p

/-- `BLOCK` is refused exactly where `Cfg.MAXLEN` is a number below the block's length (R172, the spec's own choice D5). What the
refused `BLOCK` leaves, the command itself taken back and every other piece of state as it was, is `withdraw`: that form is the
model's choice, since a refused step carries no state (log entry 15). -/
def Obligations.BlockLengthBound : Prop :=
  ∀ (b : Bytes) (s : State),
    (exec (.block b) s = .refused .blockTooLong ↔ ∃ m, Config.cfg.maxLen = some m ∧ m < b.length)
    ∧ ∀ rest, s.seq = [] → s.inbox = encode (.block b) :: rest → s.withdraw = { s with inbox := rest }

/-- From R163 and R144: the State after a `BLOCK` that fits is `block_fn` of the State before it and of the block; nothing that
the host issued or was returned changes. -/
def Obligations.BlockUpdatesWordsByBlockFn : Prop :=
  ∀ (b : Bytes) (s : State), Fits b →
    ∃ t, exec (.block b) s = .next t ∧ t.w = permuteWords Config.cfg (absorbWords (pad b) s.w) (pad b)
      ∧ t.seq = s.seq ∧ t.inbox = s.inbox ∧ t.digests = s.digests ∧ t.unitResults = s.unitResults

/-! ### The host protocol -/

/-- From any State, with the block idle, issuing `HASH` of a list of blocks that fit (R71) and running one step for each command
returns, as one more digest, the fold of `block_fn` over the blocks from the all-zero State (the inference R163 marks as its
own). -/
def Obligations.HashProtocolReturnsFold : Prop :=
  ∀ (s : State) (blocks : List Bytes), s.seq = [] → s.inbox = [] → (∀ b ∈ blocks, Fits b) →
    ∃ t : State, Host.Core.run Sys2Proof.core (blocks.length + 2) (s.issue (expandHash blocks)) = .next t
      ∧ t.digests = s.digests ++
          [blocks.foldl (fun W B => blockWords Config.cfg W B) #v[0, 0, 0, 0, 0, 0, 0, 0]]
      ∧ t.seq = [] ∧ t.inbox = []

/-- `hash` of no blocks is `INIT` and `DIGEST` with no `BLOCK` between; it returns the all-zero digest and runs no `PERMUTE`, and
`hash` of one empty block issues one `BLOCK` (R165). Beside the words (R160) and the digest returned (R162) nothing changes: that
the State stays after `DIGEST` is the spec's own choice (D15, log entry 13), and that the digest stands in the field `digests`
is the model's (log entry 3). -/
def Obligations.ZeroBlocksGiveZeroDigest : Prop :=
  expandHash [] = [.init, .digest] ∧ expandHash [[]] = [.init, .block [], .digest]
  ∧ ∀ s : State, s.seq = [] → s.inbox = [] →
    Host.Core.run Sys2Proof.core 2 (s.issue (expandHash [])) = .next { s with
      w := #v[0, 0, 0, 0, 0, 0, 0, 0], digests := s.digests ++ [#v[0, 0, 0, 0, 0, 0, 0, 0]] }

/-- `P_EMPTY_BLOCK` of R6: from any State, hashing one empty block returns a digest that is not the all-zero digest. -/
def Obligations.EmptyBlockDigestIsNotZero : Prop :=
  ∀ s : State, s.seq = [] → s.inbox = [] →
    ∃ (t : State) (d : Words), Host.Core.run Sys2Proof.core 3 (s.issue (expandHash [[]])) = .next t
      ∧ t.digests = s.digests ++ [d] ∧ d ≠ #v[0, 0, 0, 0, 0, 0, 0, 0]

/-! ### The whole machine -/

/-- The configuration has the properties R6 states of it, beside `P_EMPTY_BLOCK`, which is the statement above. -/
def Obligations.ConfigurationHasNamedProperties : Prop :=
  (Config.cfg.mixK3.getLsbD 0 = true ∧ Config.cfg.mixK6.getLsbD 0 = true ∧ Config.cfg.mixK3 ≠ Config.cfg.mixK6)
    ∧ Config.cfg.sboxSh2 ≠ Config.cfg.sboxSh5 ∧ Config.cfg.sboxSh2 ≠ Config.cfg.sboxSh7
    ∧ Config.cfg.sboxSh5 ≠ Config.cfg.sboxSh7

/-- From R21, R26, R28, R30: what no operation but the listed ones changes. `T` and `g`: `SBOXGEN` and what issues it. `P`:
`PAD` and what issues it. The words: `INIT`, `ABSORB`, `DIFF` and what issues them. The diffusion copy: `DIFF` and what issues
it. The counter of the free values, which is the model's own (log entry 2): these and `PAD`. What the host has issued and what it was returned: no operation, and `DIGEST` alone. -/
def Obligations.OnlyTheirWritersChangeState : Prop :=
  ∀ (i : Instr) (s t : State), exec i s = .next t →
    (i.op ∉ [Op.sboxgen, .permute, .block] → t.t = s.t ∧ t.g = s.g)
    ∧ (i.op ∉ [Op.pad, .block] → t.p = s.p)
    ∧ (i.op ∉ [Op.init, .absorb, .diff, .permute, .block] → t.w = s.w)
    ∧ (i.op ∉ [Op.diff, .permute, .block] → t.diffCopy = s.diffCopy)
    ∧ (i.op ∉ [Op.pad, .diff, .permute, .block] → t.tick = s.tick)
    ∧ (i.op ∉ [Op.pad, .sboxgen, .mix, .sub] → t.unitResults = s.unitResults)
    ∧ (i.op ≠ .digest → t.digests = s.digests)
    ∧ t.seq = s.seq ∧ t.inbox = s.inbox

/-- From R166 and R191: with the sequencers idle, what the host can see after a step (the State words, what it has issued and was
returned, a refusal) does not depend on `T`, `P`, `g`, the diffusion copy or what unit operations returned. -/
def Obligations.HiddenStateIsNotObservable : Prop :=
  ∀ s t : State, SameToHost s t → SameOutcomeToHost (step s) (step t)

/-- From R27 and R28: every step, of the host's commands and of unit operations alike, keeps `T` unspecified or a bijection, `P`
unspecified or of a length that is a positive multiple of 8, and `P` within its capacity. Unspecified is what reset left (log
entry 1), what a completed `BLOCK` left (log entry 20), and for `P` what a `PAD` beyond the capacity left (log entry 17); that
both otherwise keep what was written last is the model's reading (log entry 10). -/
def Obligations.StepKeepsHiddenOk : Prop :=
  ∀ s t : State, HiddenOk s → step s = .next t → HiddenOk t

/-- The invariant of the hidden state holds after reset. -/
def Obligations.ResetIsHiddenOk : Prop := HiddenOk State.reset

/-- After reset the 8 words are zero and no operation is in progress (R33, the spec's own choice D14), and nothing has been
issued or returned (the model's fields, log entry 3). -/
def Obligations.ResetZeroesWordsAndIdles : Prop :=
  State.reset.w = #v[0, 0, 0, 0, 0, 0, 0, 0] ∧ State.reset.seq = [] ∧ State.reset.inbox = [] ∧ State.reset.digests = []

/-- No step changes a digest already returned: R162's "immutable once returned". -/
def Obligations.ReturnedDigestsAreImmutable : Prop :=
  ∀ s t : State, step s = .next t → s.digests <+: t.digests

/-- From R21: with the sequencers idle, the only steps that change the State words are `INIT`, which makes them zero, and `BLOCK`,
which makes them `block_fn` of the words before. -/
def Obligations.OnlyInitAndBlockChangeWords : Prop :=
  ∀ s t : State, s.seq = [] → step s = .next t → t.w ≠ s.w →
    (∃ rest, s.inbox = encode .init :: rest ∧ t.w = #v[0, 0, 0, 0, 0, 0, 0, 0])
    ∨ ∃ b rest, s.inbox = encode (.block b) :: rest ∧ t.w = blockWords Config.cfg s.w b

/-- From R181: steps of two different instances can be taken in either order, with the same result. -/
def Obligations.InstancesAreIndependent : Prop :=
  ∀ (j k : Nat) (sys a b : List State), j ≠ k → stepInstance j sys = .next a → stepInstance k sys = .next b →
    ∃ c, stepInstance k a = .next c ∧ stepInstance j b = .next c

/-- A block that `BLOCK` lets through, padded, is within the capacity of the buffer, `Cfg.MAXLEN` rounded up to the next multiple
of 8 above it: from R28 and R141 (R172 and the capacity are the spec's own choice, D5). -/
def Obligations.BufferHoldsEveryFittingBlock : Prop := ∀ b : Bytes, Fits b → HeldByBuffer (pad b)
end

