-- ==== Sys2Proof/Laws/State.lean ====
section
/-! SUPPORT. What each field of the state is after each update: one lemma for each field and update, and for the
operations built from the updates, so that no later proof unfolds one. -/

namespace Sys2Proof.Machine

open Sys2Proof

/-! ### State.writeWords -/

@[simp] theorem State.writeWords_w (s : State) (v : Words) : (s.writeWords v).w = v := rfl

@[simp] theorem State.writeWords_t (s : State) (v : Words) : (s.writeWords v).t = s.t := rfl

@[simp] theorem State.writeWords_p (s : State) (v : Words) : (s.writeWords v).p = s.p := rfl

@[simp] theorem State.writeWords_g (s : State) (v : Words) : (s.writeWords v).g = s.g := rfl

@[simp] theorem State.writeWords_diffCopy (s : State) (v : Words) : (s.writeWords v).diffCopy = s.diffCopy := rfl

@[simp] theorem State.writeWords_seq (s : State) (v : Words) : (s.writeWords v).seq = s.seq := rfl

@[simp] theorem State.writeWords_inbox (s : State) (v : Words) : (s.writeWords v).inbox = s.inbox := rfl

@[simp] theorem State.writeWords_digests (s : State) (v : Words) : (s.writeWords v).digests = s.digests := rfl

@[simp] theorem State.writeWords_unitResults (s : State) (v : Words) : (s.writeWords v).unitResults = s.unitResults := rfl

@[simp] theorem State.writeWords_tick (s : State) (v : Words) : (s.writeWords v).tick = s.tick := rfl

/-! ### State.writeGen -/

@[simp] theorem State.writeGen_w (s : State) (q : Gen) : (s.writeGen q).w = s.w := rfl

@[simp] theorem State.writeGen_t (s : State) (q : Gen) : (s.writeGen q).t = q.t := rfl

@[simp] theorem State.writeGen_p (s : State) (q : Gen) : (s.writeGen q).p = s.p := rfl

@[simp] theorem State.writeGen_g (s : State) (q : Gen) : (s.writeGen q).g = q.g := rfl

@[simp] theorem State.writeGen_diffCopy (s : State) (q : Gen) : (s.writeGen q).diffCopy = s.diffCopy := rfl

@[simp] theorem State.writeGen_seq (s : State) (q : Gen) : (s.writeGen q).seq = s.seq := rfl

@[simp] theorem State.writeGen_inbox (s : State) (q : Gen) : (s.writeGen q).inbox = s.inbox := rfl

@[simp] theorem State.writeGen_digests (s : State) (q : Gen) : (s.writeGen q).digests = s.digests := rfl

@[simp] theorem State.writeGen_unitResults (s : State) (q : Gen) : (s.writeGen q).unitResults = s.unitResults := rfl

@[simp] theorem State.writeGen_tick (s : State) (q : Gen) : (s.writeGen q).tick = s.tick := rfl

theorem State.writeGen_eq (s : State) (q : Gen) : s.writeGen q = { s with t := q.t, g := q.g } := rfl

/-! ### State.writeBuffer -/

@[simp] theorem State.writeBuffer_w (s : State) (c : Cfg) (p : Bytes) : (s.writeBuffer c p).w = s.w := rfl

@[simp] theorem State.writeBuffer_t (s : State) (c : Cfg) (p : Bytes) : (s.writeBuffer c p).t = s.t := rfl

@[simp] theorem State.writeBuffer_g (s : State) (c : Cfg) (p : Bytes) : (s.writeBuffer c p).g = s.g := rfl

@[simp] theorem State.writeBuffer_diffCopy (s : State) (c : Cfg) (p : Bytes) : (s.writeBuffer c p).diffCopy = s.diffCopy := rfl

@[simp] theorem State.writeBuffer_seq (s : State) (c : Cfg) (p : Bytes) : (s.writeBuffer c p).seq = s.seq := rfl

@[simp] theorem State.writeBuffer_inbox (s : State) (c : Cfg) (p : Bytes) : (s.writeBuffer c p).inbox = s.inbox := rfl

@[simp] theorem State.writeBuffer_digests (s : State) (c : Cfg) (p : Bytes) : (s.writeBuffer c p).digests = s.digests := rfl

@[simp] theorem State.writeBuffer_unitResults (s : State) (c : Cfg) (p : Bytes) : (s.writeBuffer c p).unitResults = s.unitResults := rfl

@[simp] theorem State.writeBuffer_tick (s : State) (c : Cfg) (p : Bytes) : (s.writeBuffer c p).tick = s.tick + 1 := rfl

theorem State.writeBuffer_p (s : State) (c : Cfg) (p : Bytes) : (s.writeBuffer c p).p =
    if holds (bufferCapacity c.maxLen) p then p else freeBuffer c s.tick := rfl

/-- What the buffer holds, it holds whole. -/
theorem State.writeBuffer_p_of_holds (s : State) {c : Cfg} {p : Bytes} (h : holds (bufferCapacity c.maxLen) p = true) :
    (s.writeBuffer c p).p = p := if_pos h

/-! ### State.discard -/

@[simp] theorem State.discard_w (s : State) (c : Cfg) : (s.discard c).w = s.w := rfl

@[simp] theorem State.discard_diffCopy (s : State) (c : Cfg) : (s.discard c).diffCopy = s.diffCopy := rfl

@[simp] theorem State.discard_seq (s : State) (c : Cfg) : (s.discard c).seq = s.seq := rfl

@[simp] theorem State.discard_inbox (s : State) (c : Cfg) : (s.discard c).inbox = s.inbox := rfl

@[simp] theorem State.discard_digests (s : State) (c : Cfg) : (s.discard c).digests = s.digests := rfl

@[simp] theorem State.discard_unitResults (s : State) (c : Cfg) : (s.discard c).unitResults = s.unitResults := rfl

@[simp] theorem State.discard_t (s : State) (c : Cfg) : (s.discard c).t = Config.staleTable s.tick := rfl

@[simp] theorem State.discard_p (s : State) (c : Cfg) : (s.discard c).p = freeBuffer c s.tick := rfl

@[simp] theorem State.discard_g (s : State) (c : Cfg) : (s.discard c).g = Config.staleGen s.tick := rfl

@[simp] theorem State.discard_tick (s : State) (c : Cfg) : (s.discard c).tick = s.tick + 1 := rfl

/-- All that completing a `BLOCK` discards, in one equation. -/
theorem State.discard_eq (s : State) (c : Cfg) : s.discard c =
    { s with t := Config.staleTable s.tick, p := freeBuffer c s.tick, g := Config.staleGen s.tick, tick := s.tick + 1 } := rfl

/-! ### State.dropCopy -/

@[simp] theorem State.dropCopy_w (s : State) : (s.dropCopy).w = s.w := rfl

@[simp] theorem State.dropCopy_t (s : State) : (s.dropCopy).t = s.t := rfl

@[simp] theorem State.dropCopy_p (s : State) : (s.dropCopy).p = s.p := rfl

@[simp] theorem State.dropCopy_g (s : State) : (s.dropCopy).g = s.g := rfl

@[simp] theorem State.dropCopy_diffCopy (s : State) : (s.dropCopy).diffCopy = Config.staleCopy s.tick := rfl

@[simp] theorem State.dropCopy_seq (s : State) : (s.dropCopy).seq = s.seq := rfl

@[simp] theorem State.dropCopy_inbox (s : State) : (s.dropCopy).inbox = s.inbox := rfl

@[simp] theorem State.dropCopy_digests (s : State) : (s.dropCopy).digests = s.digests := rfl

@[simp] theorem State.dropCopy_unitResults (s : State) : (s.dropCopy).unitResults = s.unitResults := rfl

@[simp] theorem State.dropCopy_tick (s : State) : (s.dropCopy).tick = s.tick + 1 := rfl

/-! ### State.returnDigest -/

@[simp] theorem State.returnDigest_w (s : State) (d : Words) : (s.returnDigest d).w = s.w := rfl

@[simp] theorem State.returnDigest_t (s : State) (d : Words) : (s.returnDigest d).t = s.t := rfl

@[simp] theorem State.returnDigest_p (s : State) (d : Words) : (s.returnDigest d).p = s.p := rfl

@[simp] theorem State.returnDigest_g (s : State) (d : Words) : (s.returnDigest d).g = s.g := rfl

@[simp] theorem State.returnDigest_diffCopy (s : State) (d : Words) : (s.returnDigest d).diffCopy = s.diffCopy := rfl

@[simp] theorem State.returnDigest_seq (s : State) (d : Words) : (s.returnDigest d).seq = s.seq := rfl

@[simp] theorem State.returnDigest_inbox (s : State) (d : Words) : (s.returnDigest d).inbox = s.inbox := rfl

@[simp] theorem State.returnDigest_digests (s : State) (d : Words) : (s.returnDigest d).digests = s.digests ++ [d] := rfl

@[simp] theorem State.returnDigest_unitResults (s : State) (d : Words) : (s.returnDigest d).unitResults = s.unitResults := rfl

@[simp] theorem State.returnDigest_tick (s : State) (d : Words) : (s.returnDigest d).tick = s.tick := rfl

/-! ### State.returnUnit -/

@[simp] theorem State.returnUnit_w (s : State) (r : UnitResult) : (s.returnUnit r).w = s.w := rfl

@[simp] theorem State.returnUnit_t (s : State) (r : UnitResult) : (s.returnUnit r).t = s.t := rfl

@[simp] theorem State.returnUnit_p (s : State) (r : UnitResult) : (s.returnUnit r).p = s.p := rfl

@[simp] theorem State.returnUnit_g (s : State) (r : UnitResult) : (s.returnUnit r).g = s.g := rfl

@[simp] theorem State.returnUnit_diffCopy (s : State) (r : UnitResult) : (s.returnUnit r).diffCopy = s.diffCopy := rfl

@[simp] theorem State.returnUnit_seq (s : State) (r : UnitResult) : (s.returnUnit r).seq = s.seq := rfl

@[simp] theorem State.returnUnit_inbox (s : State) (r : UnitResult) : (s.returnUnit r).inbox = s.inbox := rfl

@[simp] theorem State.returnUnit_digests (s : State) (r : UnitResult) : (s.returnUnit r).digests = s.digests := rfl

@[simp] theorem State.returnUnit_unitResults (s : State) (r : UnitResult) : (s.returnUnit r).unitResults = s.unitResults ++ [r] := rfl

@[simp] theorem State.returnUnit_tick (s : State) (r : UnitResult) : (s.returnUnit r).tick = s.tick := rfl

/-! ### State.absorb -/

@[simp] theorem State.absorb_w (s : State) (p : Bytes) : (s.absorb p).w = absorbWords p s.w := rfl

@[simp] theorem State.absorb_t (s : State) (p : Bytes) : (s.absorb p).t = s.t := rfl

@[simp] theorem State.absorb_p (s : State) (p : Bytes) : (s.absorb p).p = s.p := rfl

@[simp] theorem State.absorb_g (s : State) (p : Bytes) : (s.absorb p).g = s.g := rfl

@[simp] theorem State.absorb_diffCopy (s : State) (p : Bytes) : (s.absorb p).diffCopy = s.diffCopy := rfl

@[simp] theorem State.absorb_seq (s : State) (p : Bytes) : (s.absorb p).seq = s.seq := rfl

@[simp] theorem State.absorb_inbox (s : State) (p : Bytes) : (s.absorb p).inbox = s.inbox := rfl

@[simp] theorem State.absorb_digests (s : State) (p : Bytes) : (s.absorb p).digests = s.digests := rfl

@[simp] theorem State.absorb_unitResults (s : State) (p : Bytes) : (s.absorb p).unitResults = s.unitResults := rfl

@[simp] theorem State.absorb_tick (s : State) (p : Bytes) : (s.absorb p).tick = s.tick := rfl

/-! ### State.generate -/

@[simp] theorem State.generate_w (s : State) (c : Cfg) (seed : Word) (b : Bytes) : (s.generate c seed b).w = s.w :=
  State.writeGen_w s _

@[simp] theorem State.generate_t (s : State) (c : Cfg) (seed : Word) (b : Bytes) : (s.generate c seed b).t = (sboxGen c seed b).t :=
  State.writeGen_t s _

@[simp] theorem State.generate_p (s : State) (c : Cfg) (seed : Word) (b : Bytes) : (s.generate c seed b).p = s.p :=
  State.writeGen_p s _

@[simp] theorem State.generate_g (s : State) (c : Cfg) (seed : Word) (b : Bytes) : (s.generate c seed b).g = (sboxGen c seed b).g :=
  State.writeGen_g s _

@[simp] theorem State.generate_diffCopy (s : State) (c : Cfg) (seed : Word) (b : Bytes) : (s.generate c seed b).diffCopy = s.diffCopy :=
  State.writeGen_diffCopy s _

@[simp] theorem State.generate_seq (s : State) (c : Cfg) (seed : Word) (b : Bytes) : (s.generate c seed b).seq = s.seq :=
  State.writeGen_seq s _

@[simp] theorem State.generate_inbox (s : State) (c : Cfg) (seed : Word) (b : Bytes) : (s.generate c seed b).inbox = s.inbox :=
  State.writeGen_inbox s _

@[simp] theorem State.generate_digests (s : State) (c : Cfg) (seed : Word) (b : Bytes) : (s.generate c seed b).digests = s.digests :=
  State.writeGen_digests s _

@[simp] theorem State.generate_unitResults (s : State) (c : Cfg) (seed : Word) (b : Bytes) : (s.generate c seed b).unitResults = s.unitResults :=
  State.writeGen_unitResults s _

@[simp] theorem State.generate_tick (s : State) (c : Cfg) (seed : Word) (b : Bytes) : (s.generate c seed b).tick = s.tick :=
  State.writeGen_tick s _

/-- All that `SBOXGEN` does to the state before its result is returned. -/
theorem State.generate_eq (s : State) (c : Cfg) (seed : Word) (b : Bytes) :
    s.generate c seed b = { s with t := (sboxGen c seed b).t, g := (sboxGen c seed b).g } :=
  State.writeGen_eq s _

/-! ### State.diffuse -/

@[simp] theorem State.diffuse_w (s : State) (r : Nat) : (s.diffuse r).w = diffWords r s.w := rfl

@[simp] theorem State.diffuse_t (s : State) (r : Nat) : (s.diffuse r).t = s.t := rfl

@[simp] theorem State.diffuse_p (s : State) (r : Nat) : (s.diffuse r).p = s.p := rfl

@[simp] theorem State.diffuse_g (s : State) (r : Nat) : (s.diffuse r).g = s.g := rfl

@[simp] theorem State.diffuse_diffCopy (s : State) (r : Nat) : (s.diffuse r).diffCopy = Config.staleCopy s.tick := rfl

@[simp] theorem State.diffuse_seq (s : State) (r : Nat) : (s.diffuse r).seq = s.seq := rfl

@[simp] theorem State.diffuse_inbox (s : State) (r : Nat) : (s.diffuse r).inbox = s.inbox := rfl

@[simp] theorem State.diffuse_digests (s : State) (r : Nat) : (s.diffuse r).digests = s.digests := rfl

@[simp] theorem State.diffuse_unitResults (s : State) (r : Nat) : (s.diffuse r).unitResults = s.unitResults := rfl

@[simp] theorem State.diffuse_tick (s : State) (r : Nat) : (s.diffuse r).tick = s.tick + 1 := rfl

/-! ### State.mixAll -/

@[simp] theorem State.mixAll_w (s : State) (c : Cfg) (rc : Word) (p : Bytes) : (s.mixAll c rc p).w = mixWords c rc p s.w := rfl

@[simp] theorem State.mixAll_t (s : State) (c : Cfg) (rc : Word) (p : Bytes) : (s.mixAll c rc p).t = s.t := rfl

@[simp] theorem State.mixAll_p (s : State) (c : Cfg) (rc : Word) (p : Bytes) : (s.mixAll c rc p).p = s.p := rfl

@[simp] theorem State.mixAll_g (s : State) (c : Cfg) (rc : Word) (p : Bytes) : (s.mixAll c rc p).g = s.g := rfl

@[simp] theorem State.mixAll_diffCopy (s : State) (c : Cfg) (rc : Word) (p : Bytes) : (s.mixAll c rc p).diffCopy = s.diffCopy := rfl

@[simp] theorem State.mixAll_seq (s : State) (c : Cfg) (rc : Word) (p : Bytes) : (s.mixAll c rc p).seq = s.seq := rfl

@[simp] theorem State.mixAll_inbox (s : State) (c : Cfg) (rc : Word) (p : Bytes) : (s.mixAll c rc p).inbox = s.inbox := rfl

@[simp] theorem State.mixAll_digests (s : State) (c : Cfg) (rc : Word) (p : Bytes) : (s.mixAll c rc p).digests = s.digests := rfl

@[simp] theorem State.mixAll_unitResults (s : State) (c : Cfg) (rc : Word) (p : Bytes) : (s.mixAll c rc p).unitResults = s.unitResults := rfl

@[simp] theorem State.mixAll_tick (s : State) (c : Cfg) (rc : Word) (p : Bytes) : (s.mixAll c rc p).tick = s.tick := rfl

/-! ### State.subAll -/

@[simp] theorem State.subAll_w (s : State) : (s.subAll).w = subWords s.t s.w := rfl

@[simp] theorem State.subAll_t (s : State) : (s.subAll).t = s.t := rfl

@[simp] theorem State.subAll_p (s : State) : (s.subAll).p = s.p := rfl

@[simp] theorem State.subAll_g (s : State) : (s.subAll).g = s.g := rfl

@[simp] theorem State.subAll_diffCopy (s : State) : (s.subAll).diffCopy = s.diffCopy := rfl

@[simp] theorem State.subAll_seq (s : State) : (s.subAll).seq = s.seq := rfl

@[simp] theorem State.subAll_inbox (s : State) : (s.subAll).inbox = s.inbox := rfl

@[simp] theorem State.subAll_digests (s : State) : (s.subAll).digests = s.digests := rfl

@[simp] theorem State.subAll_unitResults (s : State) : (s.subAll).unitResults = s.unitResults := rfl

@[simp] theorem State.subAll_tick (s : State) : (s.subAll).tick = s.tick := rfl

/-! ### State.round -/

@[simp] theorem State.round_w (c : Cfg) (p : Bytes) (s : State) (r : Nat) :
    (State.round c p s r).w = roundWords c s.t p s.w r := rfl

@[simp] theorem State.round_t (c : Cfg) (p : Bytes) (s : State) (r : Nat) :
    (State.round c p s r).t = s.t := rfl

@[simp] theorem State.round_p (c : Cfg) (p : Bytes) (s : State) (r : Nat) :
    (State.round c p s r).p = s.p := rfl

@[simp] theorem State.round_g (c : Cfg) (p : Bytes) (s : State) (r : Nat) :
    (State.round c p s r).g = s.g := rfl

@[simp] theorem State.round_diffCopy (c : Cfg) (p : Bytes) (s : State) (r : Nat) :
    (State.round c p s r).diffCopy = Config.staleCopy s.tick := rfl

@[simp] theorem State.round_seq (c : Cfg) (p : Bytes) (s : State) (r : Nat) :
    (State.round c p s r).seq = s.seq := rfl

@[simp] theorem State.round_inbox (c : Cfg) (p : Bytes) (s : State) (r : Nat) :
    (State.round c p s r).inbox = s.inbox := rfl

@[simp] theorem State.round_digests (c : Cfg) (p : Bytes) (s : State) (r : Nat) :
    (State.round c p s r).digests = s.digests := rfl

@[simp] theorem State.round_unitResults (c : Cfg) (p : Bytes) (s : State) (r : Nat) :
    (State.round c p s r).unitResults = s.unitResults := rfl

@[simp] theorem State.round_tick (c : Cfg) (p : Bytes) (s : State) (r : Nat) :
    (State.round c p s r).tick = s.tick + 1 := rfl

end Sys2Proof.Machine
end

