-- ==== Sys2Proof/Laws/Ops.lean ====
section
/-! SUPPORT. What the rounds of `PERMUTE`, `PERMUTE` itself and `BLOCK` do to each field of the state. -/

namespace Sys2Proof.Machine

open Sys2Proof

section rounds

variable (c : Cfg) (p : Bytes) (l : List Nat) (s : State)

theorem rounds_t : (l.foldl (State.round c p) s).t = s.t := by
  induction l generalizing s with
  | nil => rfl
  | cons r l ih => rw [List.foldl_cons, ih, State.round_t]

theorem rounds_w : (l.foldl (State.round c p) s).w = l.foldl (roundWords c s.t p) s.w := by
  induction l generalizing s with
  | nil => rfl
  | cons r l ih => rw [List.foldl_cons, ih, State.round_t, State.round_w, List.foldl_cons]

theorem rounds_p : (l.foldl (State.round c p) s).p = s.p := by
  induction l generalizing s with
  | nil => rfl
  | cons r l ih => rw [List.foldl_cons, ih, State.round_p]

theorem rounds_g : (l.foldl (State.round c p) s).g = s.g := by
  induction l generalizing s with
  | nil => rfl
  | cons r l ih => rw [List.foldl_cons, ih, State.round_g]

theorem rounds_seq : (l.foldl (State.round c p) s).seq = s.seq := by
  induction l generalizing s with
  | nil => rfl
  | cons r l ih => rw [List.foldl_cons, ih, State.round_seq]

theorem rounds_inbox : (l.foldl (State.round c p) s).inbox = s.inbox := by
  induction l generalizing s with
  | nil => rfl
  | cons r l ih => rw [List.foldl_cons, ih, State.round_inbox]

theorem rounds_digests : (l.foldl (State.round c p) s).digests = s.digests := by
  induction l generalizing s with
  | nil => rfl
  | cons r l ih => rw [List.foldl_cons, ih, State.round_digests]

theorem rounds_unitResults : (l.foldl (State.round c p) s).unitResults = s.unitResults := by
  induction l generalizing s with
  | nil => rfl
  | cons r l ih => rw [List.foldl_cons, ih, State.round_unitResults]

theorem rounds_tick : (l.foldl (State.round c p) s).tick = s.tick + l.length := by
  induction l generalizing s with
  | nil => rfl
  | cons r l ih => rw [List.foldl_cons, ih, State.round_tick, List.length_cons]; omega

/-- After at least one round the diffusion copy is the free value of the last `DIFF`. -/
theorem rounds_diffCopy (h : l ≠ []) :
    (l.foldl (State.round c p) s).diffCopy = Config.staleCopy (s.tick + (l.length - 1)) := by
  induction l generalizing s with
  | nil => exact absurd rfl h
  | cons r l ih =>
    rw [List.foldl_cons]
    cases l with
    | nil => rw [List.foldl_nil, State.round_diffCopy]; rfl
    | cons q l =>
      rw [ih _ (List.cons_ne_nil q l), State.round_tick]
      congr 1
      simp only [List.length_cons]
      omega

end rounds

section permute

variable (s : State) (c : Cfg) (p : Bytes)

@[simp] theorem State.permute_w : (s.permute c p).w = permuteWords c s.w p := by
  rw [State.permute, rounds_w, State.generate_t, State.generate_w, permuteWords]

@[simp] theorem State.permute_t : (s.permute c p).t = (sboxGen c (seedOf s.w) p).t := by
  rw [State.permute, rounds_t, State.generate_t]

@[simp] theorem State.permute_g : (s.permute c p).g = (sboxGen c (seedOf s.w) p).g := by
  rw [State.permute, rounds_g, State.generate_g]

@[simp] theorem State.permute_p : (s.permute c p).p = s.p := by
  rw [State.permute, rounds_p, State.generate_p]

@[simp] theorem State.permute_seq : (s.permute c p).seq = s.seq := by
  rw [State.permute, rounds_seq, State.generate_seq]

@[simp] theorem State.permute_inbox : (s.permute c p).inbox = s.inbox := by
  rw [State.permute, rounds_inbox, State.generate_inbox]

@[simp] theorem State.permute_digests : (s.permute c p).digests = s.digests := by
  rw [State.permute, rounds_digests, State.generate_digests]

@[simp] theorem State.permute_unitResults : (s.permute c p).unitResults = s.unitResults := by
  rw [State.permute, rounds_unitResults, State.generate_unitResults]

@[simp] theorem State.permute_tick : (s.permute c p).tick = s.tick + 24 := by
  rw [State.permute, rounds_tick, State.generate_tick, List.length_range, nRounds]

@[simp] theorem State.permute_diffCopy : (s.permute c p).diffCopy = Config.staleCopy (s.tick + 23) := by
  rw [State.permute, rounds_diffCopy _ _ _ _ (by rw [nRounds]; decide), State.generate_tick, List.length_range, nRounds]

/-- All that `PERMUTE` does to the state, in one equation. -/
theorem State.permute_eq : s.permute c p =
    { s with
      w := permuteWords c s.w p
      t := (sboxGen c (seedOf s.w) p).t
      g := (sboxGen c (seedOf s.w) p).g
      diffCopy := Config.staleCopy (s.tick + 23)
      tick := s.tick + 24 } :=
  State.ext (State.permute_w s c p) (State.permute_t s c p) (State.permute_p s c p) (State.permute_g s c p)
    (State.permute_diffCopy s c p)
    (State.permute_seq s c p) (State.permute_inbox s c p) (State.permute_digests s c p)
    (State.permute_unitResults s c p) (State.permute_tick s c p)

end permute

section block

variable (s : State) (c : Cfg) (b : Bytes)

@[simp] theorem State.blockStep_w : (s.blockStep c b).w = blockWords c s.w b := by
  rw [State.blockStep, State.discard_w, State.permute_w, State.absorb_w, State.writeBuffer_w, blockWords]

/-- The counter when a `BLOCK` discards: one free value offered by `PAD`, 24 drawn by the `DIFF`s. -/
theorem State.permute_tick_of_block :
    (((s.writeBuffer c (pad b)).absorb (pad b)).permute c (pad b)).tick = s.tick + 25 := by
  rw [State.permute_tick, State.absorb_tick, State.writeBuffer_tick]

@[simp] theorem State.blockStep_t : (s.blockStep c b).t = Config.staleTable (s.tick + 25) := by
  rw [State.blockStep, State.discard_t, State.permute_tick_of_block]

@[simp] theorem State.blockStep_p : (s.blockStep c b).p = freeBuffer c (s.tick + 25) := by
  rw [State.blockStep, State.discard_p, State.permute_tick_of_block]

@[simp] theorem State.blockStep_g : (s.blockStep c b).g = Config.staleGen (s.tick + 25) := by
  rw [State.blockStep, State.discard_g, State.permute_tick_of_block]

@[simp] theorem State.blockStep_tick : (s.blockStep c b).tick = s.tick + 26 := by
  rw [State.blockStep, State.discard_tick, State.permute_tick_of_block]

@[simp] theorem State.blockStep_diffCopy : (s.blockStep c b).diffCopy = Config.staleCopy (s.tick + 24) := by
  rw [State.blockStep, State.discard_diffCopy, State.permute_diffCopy, State.absorb_tick, State.writeBuffer_tick]

@[simp] theorem State.blockStep_seq : (s.blockStep c b).seq = s.seq := by
  rw [State.blockStep, State.discard_seq, State.permute_seq, State.absorb_seq, State.writeBuffer_seq]

@[simp] theorem State.blockStep_inbox : (s.blockStep c b).inbox = s.inbox := by
  rw [State.blockStep, State.discard_inbox, State.permute_inbox, State.absorb_inbox, State.writeBuffer_inbox]

@[simp] theorem State.blockStep_digests : (s.blockStep c b).digests = s.digests := by
  rw [State.blockStep, State.discard_digests, State.permute_digests, State.absorb_digests, State.writeBuffer_digests]

@[simp] theorem State.blockStep_unitResults : (s.blockStep c b).unitResults = s.unitResults := by
  rw [State.blockStep, State.discard_unitResults, State.permute_unitResults, State.absorb_unitResults, State.writeBuffer_unitResults]

/-- Two states that agree but for what unit operations returned. -/
theorem State.eq_with_unitResults {a b : State} {u : List UnitResult} (hw : a.w = b.w) (ht : a.t = b.t) (hp : a.p = b.p)
    (hg : a.g = b.g) (hd : a.diffCopy = b.diffCopy) (hs : a.seq = b.seq) (hi : a.inbox = b.inbox)
    (ho : a.digests = b.digests) (hu : a.unitResults = u) (hk : a.tick = b.tick) : a = { b with unitResults := u } :=
  State.ext hw ht hp hg hd hs hi ho hu hk

/-- `BLOCK` of a block that fits is `PAD`, `ABSORB`, `PERMUTE` one after the other and the discarding at the end, but for what
`PAD` returned. -/
theorem State.blockStep_eq_chain : s.blockStep c b =
    { (((((s.writeBuffer c (pad b)).returnUnit (.bytes (pad b))).absorb (pad b)).permute c (pad b)).discard c) with
      unitResults := s.unitResults } :=
  State.eq_with_unitResults
    (by rw [State.blockStep_w, State.discard_w, State.permute_w, State.absorb_w, State.returnUnit_w,
      State.writeBuffer_w, blockWords])
    (by rw [State.blockStep_t, State.discard_t, State.permute_tick, State.absorb_tick, State.returnUnit_tick,
      State.writeBuffer_tick])
    (by rw [State.blockStep_p, State.discard_p, State.permute_tick, State.absorb_tick, State.returnUnit_tick,
      State.writeBuffer_tick])
    (by rw [State.blockStep_g, State.discard_g, State.permute_tick, State.absorb_tick, State.returnUnit_tick,
      State.writeBuffer_tick])
    (by rw [State.blockStep_diffCopy, State.discard_diffCopy, State.permute_diffCopy, State.absorb_tick,
      State.returnUnit_tick, State.writeBuffer_tick])
    (by rw [State.blockStep_seq, State.discard_seq, State.permute_seq, State.absorb_seq, State.returnUnit_seq,
      State.writeBuffer_seq])
    (by rw [State.blockStep_inbox, State.discard_inbox, State.permute_inbox, State.absorb_inbox, State.returnUnit_inbox,
      State.writeBuffer_inbox])
    (by rw [State.blockStep_digests, State.discard_digests, State.permute_digests, State.absorb_digests, State.returnUnit_digests,
      State.writeBuffer_digests])
    (State.blockStep_unitResults s c b)
    (by rw [State.blockStep_tick, State.discard_tick, State.permute_tick, State.absorb_tick, State.returnUnit_tick,
      State.writeBuffer_tick])

end block

end Sys2Proof.Machine
end

