-- ==== Sys2Proof/Laws/Units.lean ====
section
/-! SUPPORT. What the primitives and the smallest pieces of the units do: rotations, bytes of words, exchanges of table
entries, padding, one lemma each. -/

namespace Sys2Proof.Machine

open Sys2Proof

/-! ### Rotations -/

theorem shiftRight_width (v : Word) : v >>> 64 = 0#64 := by
  apply BitVec.eq_of_toNat_eq
  rw [BitVec.toNat_ushiftRight, Nat.shiftRight_eq_div_pow]
  exact Nat.div_eq_of_lt v.isLt

theorem rotl64_eq_rotateLeft (v : Word) (n : Nat) (h : n < 64) : rotl64 v n = v.rotateLeft n := by
  unfold rotl64
  split
  · next h0 => rw [h0, BitVec.rotateLeft_def]; simp [shiftRight_width]
  · rw [BitVec.rotateLeft_def, Nat.mod_eq_of_lt h]

theorem rotr64_eq_rotateRight (v : Word) (n : Nat) (h : n < 64) : rotr64 v n = v.rotateRight n := by
  unfold rotr64
  split
  · next h0 => rw [h0, BitVec.rotateRight_def]; simp
  · rw [BitVec.rotateRight_def, Nat.mod_eq_of_lt h]

/-! ### Bytes of a word -/

theorem leNat_lt (l : Bytes) : leNat l < 256 ^ l.length := by
  induction l with
  | nil => simp [leNat]
  | cons b l ih =>
    have hb := b.isLt
    simp only [leNat, List.length_cons, Nat.pow_succ]
    omega

theorem leNat_digit (l : Bytes) (j : Nat) (h : j < l.length) : leNat l / 256 ^ j % 256 = l[j].toNat := by
  induction l generalizing j with
  | nil => simp at h
  | cons b l ih =>
    have hb := b.isLt
    cases j with
    | zero => simp [leNat]; omega
    | succ j =>
      have hd : (b.toNat + 256 * leNat l) / 256 = leNat l := by omega
      simp only [leNat, List.getElem_cons_succ, Nat.pow_succ']
      rw [← Nat.div_div_eq_div_mul, hd, ih j (by simpa using h)]

theorem byteOf_toNat (w : Word) (j : Nat) : (byteOf w j).toNat = w.toNat / 256 ^ j % 256 := by
  rw [byteOf, BitVec.extractLsb'_toNat, Nat.shiftRight_eq_div_pow, Nat.pow_mul]

/-- Byte `j` of `LE64` of 8 bytes is byte `j` of the sequence. -/
theorem byteOf_le64 (l : Bytes) (h8 : l.length = 8) (j : Nat) (h : j < l.length) : byteOf (le64 l) j = l[j] := by
  apply BitVec.eq_of_toNat_eq
  have hlt := leNat_lt l
  rw [h8] at hlt
  have hv : (le64 l).toNat = leNat l := by rw [le64, BitVec.toNat_ofNat]; exact Nat.mod_eq_of_lt hlt
  rw [byteOf_toNat, hv, leNat_digit l j h]

/-- A word is its 8 bytes. -/
theorem word_ext {v w : Word} (h : ∀ j, j < 8 → byteOf v j = byteOf w j) : v = w := by
  apply BitVec.eq_of_getLsbD_eq
  intro k hk
  have := congrArg (fun b : Byte => b.getLsbD (k % 8)) (h (k / 8) (by omega))
  simpa [byteOf, BitVec.getLsbD_extractLsb', Nat.mod_lt k (by decide : 8 > 0), Nat.div_add_mod] using this

/-- Byte `j` of `SUB w` is the entry byte `j` of `w` selects. -/
theorem byteOf_subWord (t : Table) (w : Word) (j : Nat) (h : j < 8) :
    byteOf (subWord t w) j = lookup t (byteOf w j) := by
  rw [subWord, byteOf_le64 _ (by simp) j (by simpa using h)]
  simp

/-! ### Tables -/

theorem lookup_identityTable (a : Byte) : lookup identityTable a = a := by
  simp [lookup, identityTable]

/-- What an exchange of entries `i` and `j` leaves at `a`. -/
theorem lookup_swapEntries (t : Table) (i j : Fin 256) (a : Byte) :
    lookup (swapEntries t i j) a = if a.toNat = i.val then t[j] else if a.toNat = j.val then t[i] else lookup t a := by
  simp only [lookup, swapEntries, Vector.getElem_set, Fin.getElem_fin, eq_comm (a := j.val), eq_comm (a := i.val)]
  by_cases hi : a.toNat = i.val
  · by_cases hj : a.toNat = j.val
    · have hij : i.val = j.val := hi.symm.trans hj
      simp only [hi, hij, if_true]
    · simp only [hi, if_true, hi ▸ hj, if_false]
  · by_cases hj : a.toNat = j.val
    · have hji : ¬ j.val = i.val := fun h => hi (hj.trans h)
      simp only [hj, hji, if_false, if_true]
    · simp only [hi, hj, if_false]

/-! ### The shuffle -/

theorem passIndices_length : passIndices.length = 255 := List.length_ofFn

theorem passIndices_getElem (k : Nat) (h : k < passIndices.length) : (passIndices[k]).val = 255 - k := by
  rw [show passIndices[k] = (⟨255 - k, by omega⟩ : Fin 256) from List.getElem_ofFn h]

/-- The two passes, unfolded once; no proof unfolds `shuffle` itself. -/
theorem shuffle_eq_passes (g : Word) :
    shuffle g = shufflePass lcgM2 lcgC2 (shufflePass lcgM1 lcgC1 ⟨identityTable, g⟩) := by
  unfold shuffle
  exact rfl

/-- What one shuffle step leaves at entry `a`. -/
theorem lookup_shuffleStep (m inc : Word) (i : Fin 256) (q : Gen) (a : Byte) :
    lookup (shuffleStep m inc i q).t a =
      if a.toNat = i.val then lookup q.t (BitVec.ofNat 8 ((q.g * m + inc).toNat % (i.val + 1)))
      else if a.toNat = (q.g * m + inc).toNat % (i.val + 1) then lookup q.t (BitVec.ofNat 8 i.val)
      else lookup q.t a := by
  have hj : (q.g * m + inc).toNat % (i.val + 1) < 256 := Nat.lt_of_lt_of_le (Nat.mod_lt _ (Nat.succ_pos _)) i.isLt
  have lk : ∀ n (h : n < 256), lookup q.t (BitVec.ofNat 8 n) = q.t[n] := by
    intro n h
    simp [lookup, Nat.mod_eq_of_lt h]
  rw [lk _ hj, lk _ i.isLt, shuffleStep, lookup_swapEntries]
  rfl

/-! ### The words of the State, one by one -/

theorem mixWords_getElem (c : Cfg) (rc : Word) (p : Bytes) (w : Words) (i : Fin 8) :
    (mixWords c rc p w)[i] = mixWord c w[i] rc p := by
  simp [mixWords]

theorem subWords_getElem (t : Table) (w : Words) (i : Fin 8) : (subWords t w)[i] = subWord t w[i] := by
  simp [subWords]

theorem diffWords_getElem (r : Nat) (w : Words) (i : Fin 8) : (diffWords r w)[i] = diffWord r w i.val := by
  simp [diffWords]

theorem zeroWords_getElem (i : Fin 8) : zeroWords[i] = 0#64 := by
  simp [zeroWords]

/-! ### Padding and absorption -/

theorem pad_length (b : Bytes) : (pad b).length = 8 * (b.length / 8 + 1) := by
  simp only [pad, List.length_append, List.length_cons, List.length_replicate]
  omega

theorem wholeChunks_iff (p : Bytes) : wholeChunks p = true ↔ p.length % 8 = 0 := by
  simp [wholeChunks, chunk]

theorem chunkWord_eq (p : Bytes) (k : Nat) : chunkWord p k = le64 ((p.drop (8 * k)).take 8) := rfl

/-- What one chunk leaves in word `m`. -/
theorem absorbChunk_getElem (p : Bytes) (w : Words) (k : Nat) (m : Fin 8) :
    (absorbChunk p w k)[m] = if k % 8 = m.val then w[m] ^^^ chunkWord p k else w[m] := by
  simp only [absorbChunk, wordAt, Fin.getElem_fin, Vector.getElem_set]
  split
  · next h => simp [h]
  · rfl

/-! ### The capacity of the buffer -/

theorem holds_bufferCapacity_iff (maxLen : Option Nat) (p : Bytes) :
    holds (bufferCapacity maxLen) p = true ↔ ∀ m, maxLen = some m → p.length ≤ 8 * (m / 8 + 1) := by
  cases maxLen <;> simp [holds, bufferCapacity]

/-- What is cut to a capacity is held. -/
theorem holds_cutTo (capacity : Option Nat) (p : Bytes) : holds capacity (cutTo capacity p) = true := by
  cases capacity <;> simp [holds, cutTo]

end Sys2Proof.Machine
end

