-- ==== Sys2Proof/Laws/Step.lean ====
section
/-! SUPPORT. What `exec` and `step` answer, one equation for each instruction and one case split for a step; what the decoder
makes of an encoded instruction. -/

namespace Sys2Proof.Machine

open Sys2Proof

/-! ### exec, instruction by instruction -/

theorem exec_init (s : State) : exec .init s = .next (s.writeWords zeroWords) := rfl

theorem exec_digest (s : State) : exec .digest s = .next (s.returnDigest s.w) := rfl

theorem exec_pad (b : Bytes) (s : State) :
    exec (.pad b) s = .next ((s.writeBuffer Config.cfg (pad b)).returnUnit (.bytes (pad b))) := rfl

theorem exec_absorb_of_whole {p : Bytes} (h : wholeChunks p = true) (s : State) :
    exec (.absorb p) s = .next (s.absorb p) := if_pos h

theorem exec_absorb_of_partial {p : Bytes} (h : ¬ wholeChunks p = true) (s : State) :
    exec (.absorb p) s = .refused .partialChunk := if_neg h

theorem exec_permute (p : Bytes) (s : State) : exec (.permute p) s = .next (s.permute Config.cfg p) := rfl

theorem exec_sboxgen (seed : Word) (b : Bytes) (s : State) :
    exec (.sboxgen seed b) s =
      .next ((s.generate Config.cfg seed b).returnUnit (.table (sboxGen Config.cfg seed b).t)) := rfl

theorem exec_mix (x rc : Word) (b : Bytes) (s : State) :
    exec (.mix x rc b) s = .next (s.returnUnit (.word (mixWord Config.cfg x rc b))) := rfl

theorem exec_sub (w : Word) (s : State) : exec (.sub w) s = .next (s.returnUnit (.word (subWord s.t w))) := rfl

theorem exec_diff (r : Nat) (s : State) : exec (.diff r) s = .next (s.diffuse r) := rfl

theorem exec_block_of_fits {b : Bytes} (h : Fits b) (s : State) :
    exec (.block b) s = .next (s.blockStep Config.cfg b) := if_neg (by rw [h]; decide)

theorem exec_block_of_not_fits {b : Bytes} (h : ¬ Fits b) (s : State) : exec (.block b) s = .refused .blockTooLong :=
  if_pos (by simpa [Fits] using h)

/-- Every field of what `SBOXGEN` leaves. -/
theorem exec_sboxgen_fields {seed : Word} {b : Bytes} {s t : State} (h : exec (.sboxgen seed b) s = .next t) :
    t.w = s.w ∧ t.t = (sboxGen Config.cfg seed b).t ∧ t.p = s.p ∧ t.g = (sboxGen Config.cfg seed b).g
      ∧ t.diffCopy = s.diffCopy ∧ t.seq = s.seq ∧ t.inbox = s.inbox ∧ t.digests = s.digests
      ∧ t.unitResults = s.unitResults ++ [.table (sboxGen Config.cfg seed b).t] ∧ t.tick = s.tick := by
  have ht := Host.Outcome.next.inj ((exec_sboxgen seed b s).symm.trans h)
  rw [← ht, State.returnUnit_w, State.returnUnit_t, State.returnUnit_p, State.returnUnit_g, State.returnUnit_diffCopy,
    State.returnUnit_seq, State.returnUnit_inbox, State.returnUnit_digests, State.returnUnit_unitResults,
    State.returnUnit_tick]
  exact ⟨State.generate_w s _ seed b, State.generate_t s _ seed b, State.generate_p s _ seed b, State.generate_g s _ seed b,
    State.generate_diffCopy s _ seed b, State.generate_seq s _ seed b, State.generate_inbox s _ seed b,
    State.generate_digests s _ seed b, by rw [State.generate_unitResults], State.generate_tick s _ seed b⟩

/-- The empty block fits every bound. -/
theorem fits_nil : Fits [] := rfl

/-- What `Fits` says of the configuration. -/
theorem not_fits_iff (b : Bytes) : ¬ Fits b ↔ ∃ m, Config.cfg.maxLen = some m ∧ m < b.length := by
  unfold Fits
  cases b with
  | nil => simp [exceeds]
  | cons a b => cases Config.cfg.maxLen <;> simp [exceeds]

/-- What a write leaves in the buffer, the buffer holds. -/
theorem heldByBuffer_writeBuffer (s : State) (p : Bytes) : HeldByBuffer (s.writeBuffer Config.cfg p).p := by
  rw [HeldByBuffer, ← holds_bufferCapacity_iff, State.writeBuffer_p]
  split
  · next h => exact h
  · exact holds_cutTo _ _

/-- Every free value of the buffer is held. -/
theorem heldByBuffer_freeBuffer (n : Nat) : HeldByBuffer (freeBuffer Config.cfg n) :=
  (holds_bufferCapacity_iff _ _).1 (holds_cutTo _ _)

/-! ### Decoding what was encoded -/

theorem lookupOp_code (o : Op) : lookupOp o.code = some ⟨o.code, o, o.format⟩ := by cases o <;> decide

theorem decodeOperands_operands (i : Instr) : decodeOperands i.op i.operands = .ok i := by
  cases i <;> simp [Instr.op, Instr.operands, decodeOperands]

/-- An op code the map holds is that operation's own code. -/
theorem lookupOp_eq_some {b : Byte} {row : OpRow} (h : lookupOp b = some row) :
    b = row.name.code ∧ row.format = row.name.format := by
  have hb := List.find?_some h
  have hm := List.mem_of_find?_eq_some h
  simp only [opcodeMap, List.mem_cons, List.not_mem_nil, or_false] at hm
  rw [beq_iff_eq] at hb
  rcases hm with rfl | rfl | rfl | rfl | rfl | rfl | rfl | rfl | rfl | rfl <;> exact ⟨hb.symm, rfl⟩

/-- The decoder's answer for a list of operands names an instruction issued with exactly those operands. -/
theorem decodeOperands_eq_ok {o : Op} {l : List Operand} {i : Instr} (h : decodeOperands o l = .ok i) :
    i.op = o ∧ i.operands = l := by
  unfold decodeOperands at h
  split at h
  case h_2 => split at h <;> cases h; next hl => subst hl; exact ⟨rfl, rfl⟩
  all_goals cases h; try exact ⟨rfl, rfl⟩

/-- What the boundary makes of an encoded instruction. -/
theorem accept_encode (who : Issuer) (i : Instr) :
    accept who (encode i) = if who.mayIssue i.op.format then .ok i else .error .reservedOp := by
  simp only [accept, encode, lookupOp_code, decodeOperands_operands]
  cases who.mayIssue i.op.format <;> rfl

/-- A command is accepted only where it decodes, from an issuer that may issue it. -/
theorem accept_eq_ok {who : Issuer} {c : Command} {i : Instr} (h : accept who c = .ok i) :
    decode c = .ok i ∧ who.mayIssue i.op.format = true := by
  unfold accept at h
  split at h
  · cases h
  · next row hrow =>
    split at h
    · cases h
    · next hmay =>
      split at h
      · next i' hi =>
        cases h
        obtain ⟨ho, -⟩ := decodeOperands_eq_ok hi
        exact ⟨by rw [decode, hrow]; exact hi, by rw [ho, ← (lookupOp_eq_some hrow).2]; exact hmay⟩
      · cases h

/-- The command of a decoded instruction is its encoding. -/
theorem eq_encode_of_decode {c : Command} {i : Instr} (h : decode c = .ok i) : c = encode i := by
  unfold decode at h
  split at h
  · cases h
  · next row hrow =>
    obtain ⟨ho, hl⟩ := decodeOperands_eq_ok h
    cases c with
    | mk op operands => exact congrArg₂ Command.mk ((lookupOp_eq_some hrow).1.trans (congrArg Op.code ho.symm)) hl.symm

/-! ### step -/

theorem fetch_of_seq {s : State} {c : Command} {rest : List Command} (h : s.seq = c :: rest) :
    fetch s = some (.sequencer, c, { s with seq := rest }) := by rw [fetch, h]

theorem fetch_of_inbox {s : State} {c : Command} {rest : List Command} (hs : s.seq = []) (h : s.inbox = c :: rest) :
    fetch s = some (.host, c, { s with inbox := rest }) := by rw [fetch, hs, h]

theorem fetch_of_idle {s : State} (hs : s.seq = []) (h : s.inbox = []) : fetch s = none := by rw [fetch, hs, h]

theorem step_of_fetch {s rest : State} {who : Issuer} {c : Command} {i : Instr}
    (hf : fetch s = some (who, c, rest)) (ha : accept who c = .ok i) : step s = exec i rest := by
  simp only [step, hf, ha]

/-- The host's encoded instruction, as a step performs it. -/
theorem step_host {s : State} {i : Instr} {rest : List Command} (hs : s.seq = []) (h : s.inbox = encode i :: rest)
    (hi : i.isHost = true) : step s = exec i { s with inbox := rest } :=
  step_of_fetch (fetch_of_inbox hs h) ((accept_encode _ _).trans (if_pos hi))

/-- Everything a step that answers a next state can be: the block is idle, or an accepted instruction was performed on the
state it was taken from. -/
theorem step_cases {s t : State} (h : step s = .next t) :
    (fetch s = none ∧ t = s) ∨
      ∃ who c rest i, fetch s = some (who, c, rest) ∧ accept who c = .ok i ∧ exec i rest = .next t := by
  unfold step at h
  split at h
  · next hf => cases h; exact .inl ⟨hf, rfl⟩
  · next who c rest hf =>
    split at h
    · cases h
    · next i ha => exact .inr ⟨who, c, rest, i, hf, ha, h⟩

/-- What is taken leaves every other piece of state as it was. -/
theorem fetch_cases {s rest : State} {who : Issuer} {c : Command} (h : fetch s = some (who, c, rest)) :
    (who = .sequencer ∧ ∃ cs, s.seq = c :: cs ∧ rest = { s with seq := cs })
      ∨ (who = .host ∧ s.seq = [] ∧ ∃ cs, s.inbox = c :: cs ∧ rest = { s with inbox := cs }) := by
  unfold fetch at h
  split at h
  · next c' cs hseq => cases h; exact .inl ⟨rfl, cs, hseq, rfl⟩
  · next hseq =>
    split at h
    · next c' cs hin => cases h; exact .inr ⟨rfl, hseq, cs, hin, rfl⟩
    · cases h

/-- A step on what the host may not issue. -/
theorem step_host_unit {s : State} {i : Instr} {rest : List Command} (hs : s.seq = []) (h : s.inbox = encode i :: rest)
    (hu : i.isHost = false) : step s = .refused .reservedOp := by
  have ha : accept .host (encode i) = .error .reservedOp := by
    rw [accept_encode, if_neg (by simpa [Issuer.mayIssue, Instr.isHost] using hu)]
  simp only [step, fetch_of_inbox hs h, ha]

/-- One step of a run. -/
theorem run_succ {s t : State} (n : Nat) (h : step s = .next t) :
    Host.Core.run Sys2Proof.core (n + 1) s = Host.Core.run Sys2Proof.core n t := by
  change Sys2Proof.core.step s = .next t at h
  simp only [Host.Core.run, h]

end Sys2Proof.Machine
end

