-- ==== Sys2Proof/Laws/PerInstr.lean ====
section
/-! SUPPORT. Statements about every instruction as syntax, one lemma for each constructor. -/

namespace Sys2Proof.Laws.RoundTrip

open Sys2Proof

/-- Decoding an instruction's encoding gives the instruction back (R60, R62, R63). -/
def Statement (i : Instr) : Prop := decode (encode i) = .ok i

/-- The shared step of every case: the map finds the op code, and the operands are the operation's own. -/
theorem of_tables (i : Instr) : Statement i := by
  rw [Statement, decode, encode, Machine.lookupOp_code]
  exact Machine.decodeOperands_operands i

theorem init : Statement .init := of_tables _

theorem block (data : Bytes) : Statement (.block data) := of_tables _

theorem digest : Statement .digest := of_tables _

theorem pad (b : Bytes) : Statement (.pad b) := of_tables _

theorem absorb (p : Bytes) : Statement (.absorb p) := of_tables _

theorem permute (p : Bytes) : Statement (.permute p) := of_tables _

theorem sboxgen (seed : Word) (b : Bytes) : Statement (.sboxgen seed b) := of_tables _

theorem mix (x rc : Word) (b : Bytes) : Statement (.mix x rc b) := of_tables _

theorem sub (w : Word) : Statement (.sub w) := of_tables _

theorem diff (r : Nat) : Statement (.diff r) := of_tables _

end Sys2Proof.Laws.RoundTrip
end

