-- ==== Sys2Proof/Tests/Slice0.lean ====
section
/-! SUPPORT. Small tests, their expected values from spec/95_test_vectors.md and the worked examples of the rules, and a
witness for the hypotheses of every statement that has any. -/

namespace Sys2Proof.Tests

open Sys2Proof Sys2Proof.Machine

/-! ### Helpers -/

/-- The block after reset with the given State words. -/
def withWords (w : Words) : State := { State.reset with w := w }

/-- The block after reset with the host's next commands. -/
def hostIssues (is : List Instr) : State := State.reset.issue is

/-- The block after reset with the sequencers' next unit operation. -/
def sequencerIssues (i : Instr) : State := { State.reset with seq := [encode i] }

/-- The State words of an answer. -/
def wordsOf : Host.Outcome State Fault Refusal → Option Words
  | .next s => some s.w
  | .fault _ => none
  | .refused _ => none

/-- Why an answer is no next state. -/
def refusalIn : Host.Outcome State Fault Refusal → Option Refusal
  | .next _ => none
  | .fault _ => none
  | .refused r => some r

/-- The words of V-D5. -/
def wordsD5 : Words :=
  #v[0x0101010101010101, 0x0202020202020202, 0x0303030303030303, 0x0404040404040404,
     0x0505050505050505, 0x0606060606060606, 0x0707070707070707, 0x0808080808080808]

/-- The complement table of V-B1. -/
def complementTable : Table := Vector.ofFn fun b => BitVec.ofNat 8 (b.val ^^^ 0xFF)

/-- The increment table of V-B1. -/
def incrementTable : Table := Vector.ofFn fun b => BitVec.ofNat 8 (b.val + 1)

/-! ### Well-formedness -/

/-- R142: seven bytes are not whole chunks. -/
theorem test_wellFormed_refuses_partial_absorb : (Instr.absorb [1, 2, 3, 4, 5, 6, 7]).wellFormed = false := by decide

theorem test_wellFormed_takes_whole_absorb : (Instr.absorb [1, 2, 3, 4, 5, 6, 7, 8]).wellFormed = true := by decide

/-! ### Decoding: the words of R62, bit by bit -/

theorem test_decode_init : decodeTableWord 8 0b00000001 = some .init := by decide

theorem test_decode_block : decodeTableWord 8 0b00000010 = some (.block []) := by decide

theorem test_decode_digest : decodeTableWord 8 0b00000011 = some .digest := by decide

theorem test_decode_pad : decodeTableWord 8 0b00010000 = some (.pad []) := by decide

theorem test_decode_absorb : decodeTableWord 8 0b00010001 = some (.absorb []) := by decide

theorem test_decode_permute : decodeTableWord 8 0b00100000 = some (.permute []) := by decide

theorem test_decode_sboxgen : decodeTableWord 8 0b00110000 = some (.sboxgen 0 []) := by decide

theorem test_decode_mix : decodeTableWord 8 0b01000000 = some (.mix 0 0 []) := by decide

theorem test_decode_sub : decodeTableWord 8 0b01010000 = some (.sub 0) := by decide

theorem test_decode_diff : decodeTableWord 8 0b01100000 = some (.diff 0) := by decide

/-- V-H3: op codes outside the map. -/
theorem test_decode_reserved :
    [0x00, 0x04, 0x0F, 0x12, 0x21, 0x61, 0xFF].map (decodeTableWord 8) = [none, none, none, none, none, none, none] := by
  decide

/-- The encoding column of program G3: `BLOCK "abc"` is 02, `LEN` = 3, `DATA` = 61 62 63. -/
theorem test_decode_block_abc :
    decode ⟨0x02, [.nat 3, .bytes [0x61, 0x62, 0x63]]⟩ = .ok (.block [0x61, 0x62, 0x63]) := rfl

/-- R64: `DATA` is `LEN` bytes. -/
theorem test_decode_length_mismatch :
    decode ⟨0x02, [.nat 4, .bytes [0x61, 0x62, 0x63]]⟩ = .error .lengthMismatch := rfl

/-! ### Text (R70, R71) -/

theorem test_text_quoted :
    parseLine [] "BLOCK \"abc\" # a comment".toList = some [.block [0x61, 0x62, 0x63]] := by decide

theorem test_text_hex : parseLine [] "BLOCK hex:616263".toList = some [.block [0x61, 0x62, 0x63]] := by decide

theorem test_text_rep : parseLine [] "PAD rep:3*01".toList = some [.pad [1, 1, 1]] := by decide

theorem test_text_mix :
    parseLine [] "MIX 0x0000000000000001, 0x9E3779B97F4A7C15, \"\"".toList
      = some [.mix 1 0x9E3779B97F4A7C15 []] := by decide

theorem test_text_hash_of_nothing : parseLine [] "HASH".toList = some [.init, .digest] := by decide

/-- Program G4 as one `HASH` line. -/
theorem test_text_hash :
    parseLine [] "HASH \"ab\", \"c\"".toList = some [.init, .block [0x61, 0x62], .block [0x63], .digest] := by decide

/-- S9: the first word of the digest with `W[0] = 0x80`. -/
theorem test_text_word : wordText 0x80 = "0000000000000080".toList := by decide

/-! ### Arithmetic: V-X1 -/

theorem test_arith_wraps :
    add64 0xFFFFFFFFFFFFFFFF 1 = 0 ∧ sub64 0 1 = 0xFFFFFFFFFFFFFFFF ∧ mul64 0x0404040404040404 diffK = 0x8F1638516B6E4454 := by
  decide

theorem test_arith_rotates :
    rotl64 0x8000000000000001 0 = 0x8000000000000001 ∧ rotl64 0x8000000000000001 63 = 0xC000000000000000
      ∧ rotr64 0x0000000000000001 21 = 0x0000080000000000 ∧ rotl64 diffK 25 = 0x72FE94F82B3C6EF3 := by
  decide

theorem test_arith_shift_and_remainder :
    shl64 (zext64 0xFF) 60 = 0xF000000000000000 ∧ umod 0x5851F42D4C957F2E 255 = 91
      ∧ le64 [1, 2, 3, 4, 5, 6, 7, 8] = 0x0807060504030201 := by
  decide

/-! ### INIT, DIGEST, BLOCK -/

/-- V-H1: from any State, eight zero words. -/
theorem test_init_zeroes : wordsOf (exec .init (withWords wordsD5)) = some #v[0, 0, 0, 0, 0, 0, 0, 0] := by decide

/-- V-H2: the words are returned and `W` stays. -/
theorem test_digest_copies :
    exec .digest (withWords wordsD5) = .next { withWords wordsD5 with digests := [wordsD5] } := rfl

/-- V-H4: with `MAXLEN = 64` a block of 65 bytes is too long, one of 64 is not; with no bound neither is. -/
theorem test_block_bound :
    exceeds (some 64) 64 = false ∧ exceeds (some 64) 65 = true ∧ exceeds none 65 = false := by decide

/-- Program G2: the digest of one empty block under `T0`. -/
theorem test_block_empty_T0 :
    hashBlocks t0 [[]] = #v[0x92f36887a1fc45ee, 0xf7c171b521da41c3, 0x94c85f907ba4ecc9, 0x0e108f08f8d84b3a,
      0x4d4959c42ecad429, 0x07941689107ab9e7, 0x096447665a14a8ce, 0x002018bf6f0c5aa6] :=
  Laws.T0Digest.hash_empty_block

/-- V-H3: `SBOXGEN` issued by the host is refused. -/
theorem test_host_may_not_issue_units : refusalIn (step (hostIssues [.sboxgen 0 []])) = some .reservedOp := by decide

/-! ### PAD, ABSORB -/

/-- V-A1, lengths 0, 3, 7 and 8. -/
theorem test_pad :
    pad [] = [0x80, 0, 0, 0, 0, 0, 0, 0] ∧ pad [0x61, 0x62, 0x63] = [0x61, 0x62, 0x63, 0x80, 0, 0, 0, 0]
      ∧ pad [0x31, 0x32, 0x33, 0x34, 0x35, 0x36, 0x37] = [0x31, 0x32, 0x33, 0x34, 0x35, 0x36, 0x37, 0x80]
      ∧ (pad [0x31, 0x32, 0x33, 0x34, 0x35, 0x36, 0x37, 0x38]).length = 16 := by
  decide

/-- R28: a capacity is the bound rounded up to the next multiple of 8 above it, so a bound of 64 makes 72, the length of the
padded block of 64 bytes (R141), and a bound of 63 makes 64. -/
theorem test_pad_capacity :
    bufferCapacity (some 64) = some 72 ∧ bufferCapacity (some 63) = some 64 ∧ bufferCapacity none = none
      ∧ holds (bufferCapacity (some 64)) (pad (List.replicate 64 1)) = true
      ∧ holds (bufferCapacity (some 63)) (pad (List.replicate 64 1)) = false := by
  decide +kernel

/-- V-A3: `ABSORB` onto a State of ones. -/
theorem test_absorb_onto_ones :
    wordsOf (exec (.absorb (pad [0x61, 0x62, 0x63])) (withWords (Vector.replicate 8 0xFFFFFFFFFFFFFFFF)))
      = some #v[0xffffffff7f9c9d9e, 0xffffffffffffffff, 0xffffffffffffffff, 0xffffffffffffffff,
          0xffffffffffffffff, 0xffffffffffffffff, 0xffffffffffffffff, 0xffffffffffffffff] := by
  decide

/-- V-A5: chunk 8 of a block of 64 bytes goes into word 0. -/
theorem test_absorb_wraps :
    wordsOf (exec (.absorb (pad (List.replicate 64 1))) State.reset)
      = some #v[0x0101010101010181, 0x0101010101010101, 0x0101010101010101, 0x0101010101010101,
          0x0101010101010101, 0x0101010101010101, 0x0101010101010101, 0x0101010101010101] := by
  decide +kernel

/-! ### SBOXGEN -/

/-- V-S3: seed mixing under `T0`, both branches. -/
theorem test_sboxgen_seed_mixing :
    seedMix t0 0 [1, 2, 3, 4, 5, 6, 7] = 0x0007060504030201
      ∧ seedMix t0 0 [0x09, 0x09, 0xaa, 0x09, 0x09, 0xbb, 0x09, 0xcc, 0x09, 0x09] = 0xCC00BB0000AA0000
      ∧ seedMix t0 0xFFFFFFFFFFFFFFFF [0xff] = 0xFFFFFFFFFFFFFF00 := by
  decide

/-- V-S1: the generator and the partner in the first two steps from seed 0. -/
theorem test_sboxgen_first_steps :
    (shuffleStep lcgM1 lcgC1 255 ⟨identityTable, 0⟩).g = 1 ∧ (partner 1 255).val = 1
      ∧ (shuffleStep lcgM1 lcgC1 254 ⟨identityTable, 1⟩).g = 0x5851F42D4C957F2E
      ∧ (partner 0x5851F42D4C957F2E 254).val = 91 := by
  decide

/-! ### MIX, SUB, DIFF, PERMUTE -/

/-- V-M2: a fold value under `T0`. -/
theorem test_mix_fold_value : foldVal t0 [0, 0, 0, 0x65, 0, 0, 0x69] (by decide) = 0x5E5989F1E4B4DDCD := by decide

/-- V-M4: the last row with a fold, and V-M3. -/
theorem test_mix :
    mixWord t0 0x80 0x9E3779B97F4A7C15 [0, 0, 0, 1, 0, 0, 1] = 0x6E2E672DC22F1390
      ∧ mixWord t0 1 0x9E3779B97F4A7C15 [] = 0x11B8F0A88B132199 := by
  decide

/-- V-B1: the complement table. -/
theorem test_sub_complement : subWord complementTable 0x0123456789ABCDEF = 0xFEDCBA9876543210 := by decide +kernel

/-- V-B1, V-B2: nothing carries between bytes. -/
theorem test_sub_increment : subWord incrementTable 0x00FF00FF00FF00FF = 0x0100010001000100 := by decide +kernel

/-- V-D5 with `r = 0`; V-D7 (in place), V-D8 (old word left out) would give other words. -/
theorem test_diff :
    wordsOf (exec (.diff 0) (withWords wordsD5))
      = some #v[0xac351b72484d6777, 0x0d2e9aee9f6cfb68, 0x8e5ae38f9e92f251, 0x774138067dcfdb35,
          0x634404a1e3e88bae, 0x24b9bb2e26cb8710, 0x5010b5f7cc9fba77, 0x65747818bb64b009] := by
  decide

/-- V-D5 with `r = 23`, by V-D6 also `DIFF 87`. -/
theorem test_diff_87 :
    wordsOf (exec (.diff 87) (withWords wordsD5))
      = some #v[0x019c9e0b036ea235, 0xac946da66fdd4c96, 0x4941c7f7a649a3ff, 0x211cc5cfb89982be,
          0x2b8a8f3eac4ad979, 0x911563c58e145adb, 0x6e73da48ae3d9dcf, 0x24759a702c9a9214] := by
  decide

/-- V-P1: `MIX` on every word in round 0. -/
theorem test_permute_round0_mix :
    mixWords t0 (roundConst t0 0) [0x80, 0, 0, 0, 0, 0, 0, 0] #v[0x80, 0, 0, 0, 0, 0, 0, 0]
      = #v[0xffc410539de35a1a, 0xb4e6225d533522a9, 0xb4e6225d533522a9, 0xb4e6225d533522a9,
          0xb4e6225d533522a9, 0xb4e6225d533522a9, 0xb4e6225d533522a9, 0xb4e6225d533522a9] := by
  decide

/-- V-P1: `DIFF 0` in round 0. -/
theorem test_permute_round0_diff :
    diffWords 0 #v[0x5bcbdd8580625817, 0x0e156e3c855c6e3b, 0x0e156e3c855c6e3b, 0x0e156e3c855c6e3b,
        0x0e156e3c855c6e3b, 0x0e156e3c855c6e3b, 0x0e156e3c855c6e3b, 0x0e156e3c855c6e3b]
      = #v[0x65db7736bb141eb0, 0x07a082fcf7fc8123, 0x2d305b06df857a16, 0x9af4e383e01f5c0f,
          0x4fba1f95c543ec39, 0xeabea0920c3bb64c, 0x9e0866731e19745b, 0x2c17e72388452d03] := by
  decide

/-! ### Witnesses: values that meet the hypotheses of the statements -/

theorem witness_OpcodeMapIsAsPrinted :
    (0x00 : Byte).toNat ∉ [0x01, 0x02, 0x03, 0x10, 0x11, 0x20, 0x30, 0x40, 0x50, 0x60] := by decide

theorem witness_RotationMovesBits : (0 < 64 ∧ 0 < 64) ∧ 63 < 64 := by decide

theorem witness_LittleEndianBytes : [1, 2, 3, 4, 5, 6, 7, (8 : Byte)].length = 8 ∧ 7 < 8 := by decide

theorem witness_StepRunsDecodedInstruction_sequencer :
    (sequencerIssues (.diff 23)).seq = encode (.diff 23) :: [] ∧ decode (encode (.diff 23)) = .ok (.diff 23)
      ∧ (Instr.diff 23).isHost = false := ⟨rfl, rfl, rfl⟩

theorem witness_StepRunsDecodedInstruction_host :
    (hostIssues [.init]).seq = [] ∧ (hostIssues [.init]).inbox = encode .init :: []
      ∧ decode (encode .init) = .ok .init ∧ Instr.init.isHost = true := ⟨rfl, rfl, rfl, rfl⟩

theorem witness_StepRunsDecodedInstruction_idle : State.reset.seq = [] ∧ State.reset.inbox = [] := ⟨rfl, rfl⟩

theorem witness_ReservedOpCodesAreRefused :
    ({ State.reset with inbox := [⟨0x30, []⟩] } : State).inbox = ⟨0x30, []⟩ :: [] ∧ State.reset.seq = []
      ∧ (0x30 : Byte).toNat ≠ 1 ∧ (0x30 : Byte).toNat ≠ 2 ∧ (0x30 : Byte).toNat ≠ 3 :=
  ⟨rfl, rfl, by decide, by decide, by decide⟩

theorem witness_TwoRefusalsOnly :
    (hostIssues [.pad []]).seq = [] ∧ (hostIssues [.pad []]).inbox = encode (.pad []) :: [] := ⟨rfl, rfl⟩

theorem witness_ProperHostCommandsComplete_init :
    (hostIssues [.init]).seq = [] ∧ (hostIssues [.init]).inbox = encode .init :: [] ∧ ProperHostCommand .init :=
  ⟨rfl, rfl, trivial⟩

theorem witness_ProperHostCommandsComplete_block :
    (hostIssues [.block []]).seq = [] ∧ (hostIssues [.block []]).inbox = encode (.block []) :: []
      ∧ ProperHostCommand (.block []) := ⟨rfl, rfl, fits_nil⟩

theorem witness_ProperHostCommandsComplete_digest :
    (hostIssues [.digest]).seq = [] ∧ (hostIssues [.digest]).inbox = encode .digest :: [] ∧ ProperHostCommand .digest :=
  ⟨rfl, rfl, trivial⟩

theorem witness_AbsorbXorsChunksModuloEight : (pad (List.replicate 64 1)).length % 8 = 0 := by decide +kernel

theorem witness_AbsorbOfPartialChunkIsRefused : [(0 : Byte)].length % 8 ≠ 0 := by decide

theorem witness_ShortBlockTouchesWordZero : [1, 2, 3, 4, 5, 6, (7 : Byte)].length ≤ 7 ∧ (7 : Fin 8) ≠ 0 := by decide

theorem witness_MixAppliesCoreThenFold :
    [1, 2, 3, 4, 5, (6 : Byte)].length ≤ 6 ∧ 6 < [1, 2, 3, 4, 5, 6, (7 : Byte)].length := by decide

theorem witness_MixSeesTwoBytes :
    let a : Bytes := [0, 0, 0, 0xaa, 0, 0, 0xbb]
    let b : Bytes := [0x11, 0x22, 0x33, 0xaa, 0x44, 0x55, 0xbb, 0x66, 0x77]
    (6 < a.length ↔ 6 < b.length) ∧ (6 < a.length → a[3]? = b[3]? ∧ a[6]? = b[6]?) := by decide

theorem witness_SubIsBijective : IsBijection identityTable := by
  have h : lookup identityTable = id := funext lookup_identityTable
  rw [IsBijection, h]
  exact Function.bijective_id

theorem witness_DiffSeesRoundModulo64 : 87 % 64 = 23 % 64 := by decide

theorem witness_DiffKeepsZeroState : State.reset.w = #v[0, 0, 0, 0, 0, 0, 0, 0] := by decide

theorem witness_SeedMixingBranches :
    7 < [1, 2, 3, 4, 5, 6, 7, (8 : Byte)].length ∧ [1, 2, 3, 4, 5, 6, (7 : Byte)].length ≤ 7 := by decide

/-- V-S3's consequence needs `T0`; for every configuration, `seed` 0 and the block 0 mix to the seed itself. -/
theorem witness_SboxgenLeavesBijection : seedMix Config.cfg 0 [0] = seedMix Config.cfg 0 [] := by
  simp [seedMix, longForSbox, zext64, shl64]

theorem witness_SboxgenSeesThreeBytes :
    let a : Bytes := [0, 0, 0xaa, 0, 0, 0xbb, 0, 0xcc]
    let b : Bytes := [9, 9, 0xaa, 9, 9, 0xbb, 9, 0xcc, 9, 9]
    7 < a.length ∧ 7 < b.length ∧ a[2]? = b[2]? ∧ a[5]? = b[5]? ∧ a[7]? = b[7]? := by decide

/-- V-P3: the padded empty block and the padded block of V-A7. -/
theorem witness_PermuteSeesFiveBytes :
    let a : Bytes := pad []
    let b : Bytes := pad (0x80 :: List.replicate 63 0)
    7 < a.length ∧ 7 < b.length ∧ a[2]? = b[2]? ∧ a[3]? = b[3]? ∧ a[5]? = b[5]? ∧ a[6]? = b[6]? ∧ a[7]? = b[7]? := by
  decide +kernel

theorem witness_BufferHoldsEveryFittingBlock : Fits [] := fits_nil

/-- The padded empty block has 8 bytes, and no capacity is below 8. -/
theorem witness_PadAppendsMarkAndZeros :
    HeldByBuffer (([] : Bytes) ++ [0x80#8] ++ List.replicate ((8 - (([] : Bytes).length + 1) % 8) % 8) 0x00#8) := by
  intro m _
  simp

theorem witness_BlockIsPadAbsorbPermute : ∀ m, Config.cfg.maxLen = some m → ([] : Bytes).length ≤ m :=
  fun _ _ => Nat.zero_le _

theorem witness_BlockLengthBound :
    (hostIssues [.block []]).seq = [] ∧ (hostIssues [.block []]).inbox = encode (.block []) :: [] := ⟨rfl, rfl⟩

theorem witness_BlockUpdatesWordsByBlockFn : Fits [] := fits_nil

theorem witness_HashProtocolReturnsFold :
    State.reset.seq = [] ∧ State.reset.inbox = [] ∧ ∀ b ∈ [[], ([] : Bytes)], Fits b := by
  refine ⟨rfl, rfl, fun b hb => ?_⟩
  simp only [List.mem_cons, List.not_mem_nil, or_false, or_self] at hb
  rw [hb]
  exact fits_nil

theorem witness_ZeroBlocksGiveZeroDigest : State.reset.seq = [] ∧ State.reset.inbox = [] := ⟨rfl, rfl⟩

theorem witness_EmptyBlockDigestIsNotZero : State.reset.seq = [] ∧ State.reset.inbox = [] := ⟨rfl, rfl⟩

/-- Two states that differ in `T` and `g` and look alike to the host. -/
theorem witness_HiddenStateIsNotObservable :
    SameToHost (hostIssues [.digest]) { hostIssues [.digest] with t := identityTable, g := 5 } :=
  ⟨rfl, rfl, rfl, rfl, rfl⟩

theorem witness_StepKeepsHiddenOk :
    HiddenOk (hostIssues [.init]) ∧ step (hostIssues [.init]) = .next (State.reset.writeWords zeroWords) :=
  ⟨⟨.inl (.inl rfl), .inl (.inl rfl), (holds_bufferCapacity_iff _ _).1 (holds_cutTo _ _)⟩, rfl⟩

theorem witness_ReturnedDigestsAreImmutable :
    step (hostIssues [.digest]) = .next { State.reset with digests := [State.reset.w] } := rfl

/-- `INIT` issued in the State of V-D5. -/
theorem witness_OnlyInitAndBlockChangeWords :
    let s : State := { withWords wordsD5 with inbox := [encode .init] }
    s.seq = [] ∧ step s = .next (State.reset.writeWords zeroWords) ∧ (State.reset.writeWords zeroWords).w ≠ s.w :=
  ⟨rfl, rfl, by decide⟩

/-- `DIFF` from the all-zero State: a next state, and every op code is outside some of the lists. -/
theorem witness_OnlyTheirWritersChangeState :
    exec (.diff 0) State.reset = .next (State.reset.diffuse 0) ∧ (Instr.diff 0).op ∉ [Op.sboxgen, .permute, .block]
      ∧ (Instr.diff 0).op ∉ [Op.pad, .block] ∧ Instr.digest.op ∉ [Op.init, .absorb, .diff, .permute, .block]
      ∧ Instr.digest.op ∉ [Op.diff, .permute, .block] ∧ Instr.digest.op ∉ [Op.pad, .diff, .permute, .block]
      ∧ (Instr.diff 0).op ∉ [Op.pad, .sboxgen, .mix, .sub]
      ∧ (Instr.diff 0).op ≠ .digest :=
  ⟨rfl, by decide, by decide, by decide, by decide, by decide, by decide, by decide⟩

/-- What the host's next step finds where `withFetchWord` puts a unit operation. -/
theorem test_withFetchWord_diff : step (State.reset.withFetchWord 8 0x60) = exec (.diff 0) State.reset := rfl

theorem witness_InstancesAreIndependent :
    let sys : List State := [hostIssues [.init], hostIssues [.digest]]
    0 ≠ 1 ∧ stepInstance 0 sys = .next [State.reset.writeWords zeroWords, hostIssues [.digest]]
      ∧ stepInstance 1 sys = .next [hostIssues [.init], { State.reset with digests := [State.reset.w] }] :=
  ⟨by decide, rfl, rfl⟩

end Sys2Proof.Tests
end

section
/-! PROOFS. The family `00_scope.md`: the primitives' arithmetic, the configuration's named properties, and what hashing one
empty block returns. -/

namespace Sys2Proof.Machine

open Sys2Proof

/-! ### Arithmetic -/

/-- Settles O5. The difference is read off the integers: `2^64 - b + a` and `a - b` are equal modulo 2^64. -/
theorem arithmeticWraps : Obligations.ArithmeticWraps := by
  intro a b
  refine ⟨BitVec.toNat_add a b, ?_, BitVec.toNat_mul a b⟩
  have hb := b.isLt
  rw [BitVec.toNat_sub]
  omega

/-- Settles O6: a shift is multiplication by `2^n`, cut to the word. -/
theorem shiftDropsHighBits : Obligations.ShiftDropsHighBits := by
  intro v n
  rw [shl64, BitVec.toNat_shiftLeft, Nat.shiftLeft_eq]

/-! ### Rotations -/

/-- Bit `k` of a word rotated left by `n` comes from `k - n`, or from `k + 64 - n` where that is below 0. -/
theorem getLsbD_rotl64 (v : Word) {n k : Nat} (hn : n < 64) (hk : k < 64) :
    (rotl64 v n).getLsbD k = v.getLsbD ((k + 64 - n) % 64) := by
  rw [rotl64_eq_rotateLeft v n hn, BitVec.getLsbD_rotateLeft, Nat.mod_eq_of_lt hn]
  by_cases h : k < n
  · have hi : (k + 64 - n) % 64 = 64 - n + k := by omega
    simp [h, hi]
  · have hi : (k + 64 - n) % 64 = k - n := by omega
    simp [h, hk, hi]

/-- The two shifts of a rotation to the right by `n` are those of a rotation to the left by `64 - n`, in the other order. -/
theorem rotr64_eq_rotl64 (v : Word) {n : Nat} (hn : n < 64) : rotr64 v n = rotl64 v ((64 - n) % 64) := by
  by_cases h : n = 0
  · subst h; rfl
  · have hm : (64 - n) % 64 = 64 - n := by omega
    have hback : 64 - (64 - n) = n := by omega
    rw [rotr64, rotl64, hm, hback, if_neg h, if_neg (by omega), BitVec.or_comm]

/-- Settles O7, from the source of each bit and the order of the two shifts. -/
theorem rotationMovesBits : Obligations.RotationMovesBits :=
  fun v _ hn => ⟨fun _ hk => getLsbD_rotl64 v hn hk, rotr64_eq_rotl64 v hn⟩

/-- Settles O8: digit `j` in base 256 of the number the bytes stand for is byte `j`. -/
theorem littleEndianBytes : Obligations.LittleEndianBytes :=
  fun bs h8 j hj => byteOf_le64 bs h8 j hj

/-! ### The configuration -/

/-- Settles O41: the configuration carries the proofs of both properties. -/
theorem configurationHasNamedProperties : Obligations.ConfigurationHasNamedProperties :=
  ⟨Config.cfg_pMixK, Config.cfg_pSboxSh⟩

/-! ### A run of `HASH` -/

section hostSteps

/-! What the host's next command leaves in the fields the host sees, with the sequencers idle. -/

variable {s : State} {rest : List Command} (hseq : s.seq = [])
include hseq

theorem step_init (hinbox : s.inbox = encode .init :: rest) :
    ∃ t, step s = .next t ∧ t.w = zeroWords ∧ t.seq = [] ∧ t.inbox = rest ∧ t.digests = s.digests :=
  ⟨_, step_host hseq hinbox rfl, rfl, hseq, rfl, rfl⟩

theorem step_digest (hinbox : s.inbox = encode .digest :: rest) :
    ∃ t, step s = .next t ∧ t.w = s.w ∧ t.seq = [] ∧ t.inbox = rest ∧ t.digests = s.digests ++ [s.w] :=
  ⟨_, step_host hseq hinbox rfl, rfl, hseq, rfl, rfl⟩

theorem step_block {b : Bytes} (hb : Fits b) (hinbox : s.inbox = encode (.block b) :: rest) :
    ∃ t, step s = .next t ∧ t.w = blockWords Config.cfg s.w b ∧ t.seq = [] ∧ t.inbox = rest ∧ t.digests = s.digests :=
  ⟨_, (step_host hseq hinbox rfl).trans (exec_block_of_fits hb _), State.blockStep_w .., (State.blockStep_seq ..).trans hseq,
    State.blockStep_inbox .., State.blockStep_digests ..⟩

end hostSteps

/-- With the sequencers idle and blocks that fit issued, one step for each block folds `block_fn` over the words and takes
the blocks' commands; the digests stay. -/
theorem run_blocks {blocks : List Bytes} (hfits : ∀ b ∈ blocks, Fits b) {rest : List Command} (n : Nat) {s : State}
    (hseq : s.seq = []) (hinbox : s.inbox = (blocks.map Instr.block).map encode ++ rest) :
    ∃ t : State, Host.Core.run Sys2Proof.core (blocks.length + n) s = Host.Core.run Sys2Proof.core n t
      ∧ t.w = blocks.foldl (blockWords Config.cfg) s.w ∧ t.seq = [] ∧ t.inbox = rest ∧ t.digests = s.digests := by
  induction blocks generalizing s with
  | nil => exact ⟨s, by rw [List.length_nil, Nat.zero_add], rfl, hseq, hinbox, rfl⟩
  | cons b blocks ih =>
    obtain ⟨hb, hblocks⟩ := List.forall_mem_cons.1 hfits
    obtain ⟨s₁, hstep, hw₁, hseq₁, hinbox₁, hdigests₁⟩ := step_block hseq hb hinbox
    obtain ⟨t, hrun, hw, htseq, htinbox, hdigests⟩ := ih hblocks hseq₁ hinbox₁
    refine ⟨t, ?_, ?_, htseq, htinbox, hdigests.trans hdigests₁⟩
    · rw [List.length_cons, Nat.add_right_comm, run_succ _ hstep, hrun]
    · rw [hw, hw₁, List.foldl_cons]

/-- From an idle state, issuing `HASH` of blocks that fit and running one step for each command returns `hash` of the blocks
as one more digest, and leaves the block idle (R71, R163). -/
theorem run_expandHash {blocks : List Bytes} (hfits : ∀ b ∈ blocks, Fits b) {s : State} (hseq : s.seq = [])
    (hinbox : s.inbox = []) :
    ∃ t : State, Host.Core.run Sys2Proof.core (blocks.length + 2) (s.issue (expandHash blocks)) = .next t
      ∧ t.digests = s.digests ++ [hashBlocks Config.cfg blocks] ∧ t.seq = [] ∧ t.inbox = [] := by
  have hissued : (s.issue (expandHash blocks)).inbox =
      encode .init :: ((blocks.map Instr.block).map encode ++ [encode .digest]) := by
    simp [State.issue, expandHash, hinbox]
  obtain ⟨s₁, hinit, hw₁, hseq₁, hinbox₁, hdigests₁⟩ := step_init (s := s.issue (expandHash blocks)) hseq hissued
  obtain ⟨s₂, hrun, hw₂, hseq₂, hinbox₂, hdigests₂⟩ := run_blocks hfits 1 hseq₁ hinbox₁
  obtain ⟨t, hdigest, -, htseq, htinbox, htdigests⟩ := step_digest hseq₂ hinbox₂
  refine ⟨t, ?_, ?_, htseq, htinbox⟩
  · rw [run_succ _ hinit, hrun, run_succ _ hdigest]
    rfl
  · rw [htdigests, hdigests₂, hdigests₁, hw₂, hw₁]
    rfl

/-- Settles O40: the digest is `hash` of one empty block, which `P_EMPTY_BLOCK` says is not zero; the empty block fits every
bound. -/
theorem emptyBlockDigestIsNotZero : Obligations.EmptyBlockDigestIsNotZero := by
  intro s hseq hinbox
  obtain ⟨t, hrun, hdigests, -, -⟩ := run_expandHash (blocks := [[]]) (by simp [fits_nil]) hseq hinbox
  exact ⟨t, hashBlocks Config.cfg [[]], hrun, hdigests, Config.cfg_pEmptyBlock⟩

end Sys2Proof.Machine
end

section
/-! PROOFS. The family `10_state.md`: which operation writes which piece of state, the invariant of the hidden state, and what
of a step the host can see. -/

namespace Sys2Proof.Machine

open Sys2Proof

/-! ### What a completed operation leaves

`effect` names the next state of `exec` once, so that the frame of each field is a case split over the instructions. The
case of `SBOXGEN` is rewritten step by step: a comparison of whole states would make the kernel run the shuffle. -/

/-- The state an operation leaves where it completes. -/
def effect (i : Instr) (s : State) : State :=
  match i with
  | .init => s.writeWords zeroWords
  | .block b => s.blockStep Config.cfg b
  | .digest => s.returnDigest s.w
  | .pad b => (s.writeBuffer Config.cfg (pad b)).returnUnit (.bytes (pad b))
  | .absorb p => s.absorb p
  | .permute p => s.permute Config.cfg p
  | .sboxgen seed b => (s.generate Config.cfg seed b).returnUnit (.table (sboxGen Config.cfg seed b).t)
  | .mix x rc b => s.returnUnit (.word (mixWord Config.cfg x rc b))
  | .sub w => s.returnUnit (.word (subWord s.t w))
  | .diff r => s.diffuse r

/-- `BLOCK` and `ABSORB` may be refused; where an operation completes, it leaves its effect. -/
theorem eq_effect_of_exec {i : Instr} {s t : State} (h : exec i s = .next t) : t = effect i s := by
  cases i with
  | block b =>
    by_cases hb : Fits b
    · rw [exec_block_of_fits hb] at h
      exact (Host.Outcome.next.inj h).symm
    · rw [exec_block_of_not_fits hb] at h
      cases h
  | absorb p =>
    by_cases hp : wholeChunks p = true
    · rw [exec_absorb_of_whole hp] at h
      exact (Host.Outcome.next.inj h).symm
    · rw [exec_absorb_of_partial hp] at h
      cases h
  | _ => exact (Host.Outcome.next.inj h).symm

section frame

variable {i : Instr} (s : State)

theorem effect_t (hi : i.op ∉ [Op.sboxgen, .permute, .block]) : (effect i s).t = s.t := by
  cases i with
  | sboxgen | permute | block => simp [Instr.op] at hi
  | _ => simp [effect]

theorem effect_g (hi : i.op ∉ [Op.sboxgen, .permute, .block]) : (effect i s).g = s.g := by
  cases i with
  | sboxgen | permute | block => simp [Instr.op] at hi
  | _ => simp [effect]

theorem effect_p (hi : i.op ∉ [Op.pad, .block]) : (effect i s).p = s.p := by
  cases i with
  | pad | block => simp [Instr.op] at hi
  | sboxgen seed b => rw [effect, State.returnUnit_p, State.generate_p]
  | _ => simp [effect]

theorem effect_w (hi : i.op ∉ [Op.init, .absorb, .diff, .permute, .block]) : (effect i s).w = s.w := by
  cases i with
  | init | absorb | diff | permute | block => simp [Instr.op] at hi
  | sboxgen seed b => rw [effect, State.returnUnit_w, State.generate_w]
  | _ => simp [effect]

theorem effect_diffCopy (hi : i.op ∉ [Op.diff, .permute, .block]) : (effect i s).diffCopy = s.diffCopy := by
  cases i with
  | diff | permute | block => simp [Instr.op] at hi
  | sboxgen seed b => rw [effect, State.returnUnit_diffCopy, State.generate_diffCopy]
  | _ => simp [effect]

theorem effect_tick (hi : i.op ∉ [Op.pad, .diff, .permute, .block]) : (effect i s).tick = s.tick := by
  cases i with
  | pad | diff | permute | block => simp [Instr.op] at hi
  | sboxgen seed b => rw [effect, State.returnUnit_tick, State.generate_tick]
  | _ => simp [effect]

theorem effect_unitResults (hi : i.op ∉ [Op.pad, .sboxgen, .mix, .sub]) : (effect i s).unitResults = s.unitResults := by
  cases i with
  | pad | sboxgen | mix | sub => simp [Instr.op] at hi
  | _ => simp [effect]

theorem effect_digests (hi : i.op ≠ .digest) : (effect i s).digests = s.digests := by
  cases i with
  | digest => exact absurd rfl hi
  | sboxgen seed b => rw [effect, State.returnUnit_digests, State.generate_digests]
  | _ => simp [effect]

theorem effect_seq : (effect i s).seq = s.seq := by
  cases i with
  | sboxgen seed b => rw [effect, State.returnUnit_seq, State.generate_seq]
  | _ => simp [effect]

theorem effect_inbox : (effect i s).inbox = s.inbox := by
  cases i with
  | sboxgen seed b => rw [effect, State.returnUnit_inbox, State.generate_inbox]
  | _ => simp [effect]

end frame

/-- Settles O42, field by field. -/
theorem onlyTheirWritersChangeState : Obligations.OnlyTheirWritersChangeState := by
  intro i s t h
  obtain rfl := eq_effect_of_exec h
  exact ⟨fun hi => ⟨effect_t s hi, effect_g s hi⟩, effect_p s, effect_w s, effect_diffCopy s, effect_tick s,
    effect_unitResults s, effect_digests s, effect_seq s, effect_inbox s⟩

/-! ### Steps -/

theorem step_of_idle {s : State} (hseq : s.seq = []) (hinbox : s.inbox = []) : step s = .next s := by
  simp only [step, fetch_of_idle hseq hinbox]

theorem step_of_rejected {s rest : State} {who : Issuer} {c : Command} {r : Refusal}
    (hfetch : fetch s = some (who, c, rest)) (haccept : accept who c = .error r) : step s = .refused r := by
  simp only [step, hfetch, haccept]

/-- Settles O9: a command that decodes is its instruction's encoding, which the issuer of its format may issue. -/
theorem stepRunsDecodedInstruction : Obligations.StepRunsDecodedInstruction := by
  refine ⟨fun s c rest i hseq hc hi => ?_, fun s c rest i hseq hinbox hc hi => ?_, fun s => step_of_idle⟩
  · obtain rfl := eq_encode_of_decode hc
    have hmay : Issuer.sequencer.mayIssue i.op.format = true := congrArg not hi
    exact step_of_fetch (fetch_of_seq hseq) ((accept_encode _ i).trans (if_pos hmay))
  · obtain rfl := eq_encode_of_decode hc
    exact step_host hseq hinbox hi

/-- What the host may issue is one of its three commands (R61). -/
theorem isHost_cases {i : Instr} (hi : i.isHost = true) : i = .init ∨ i = .digest ∨ ∃ b, i = .block b := by
  cases i with
  | init => exact .inl rfl
  | digest => exact .inr (.inl rfl)
  | block b => exact .inr (.inr ⟨b, rfl⟩)
  | _ => cases hi

/-- With the sequencers idle, a step that answers a next state is the idle step, or performs a host command. -/
theorem step_cases_of_seq_nil {s t : State} (hseq : s.seq = []) (h : step s = .next t) :
    t = s ∨ ∃ i rest, s.inbox = encode i :: rest ∧ i.isHost = true ∧ t = effect i { s with inbox := rest } := by
  obtain ⟨-, rfl⟩ | ⟨who, c, rest, i, hfetch, haccept, hexec⟩ := step_cases h
  · exact .inl rfl
  · obtain ⟨hdecode, hmay⟩ := accept_eq_ok haccept
    obtain rfl := eq_encode_of_decode hdecode
    obtain ⟨-, cs, hcs, -⟩ | ⟨rfl, -, cs, hinbox, rfl⟩ := fetch_cases hfetch
    · rw [hseq] at hcs
      cases hcs
    · exact .inr ⟨i, cs, hinbox, hmay, eq_effect_of_exec hexec⟩

/-- Settles O48: of the three host commands `DIGEST` leaves the words. -/
theorem onlyInitAndBlockChangeWords : Obligations.OnlyInitAndBlockChangeWords := by
  intro s t hseq h hw
  obtain rfl | ⟨i, rest, hinbox, hi, rfl⟩ := step_cases_of_seq_nil hseq h
  · exact absurd rfl hw
  · obtain rfl | rfl | ⟨b, rfl⟩ := isHost_cases hi
    · exact .inl ⟨rest, hinbox, rfl⟩
    · exact absurd rfl hw
    · exact .inr ⟨b, rest, hinbox, State.blockStep_w _ Config.cfg b⟩

/-! ### What the host sees -/

theorem sameOutcomeToHost_next {s t : State} :
    SameOutcomeToHost (.next s) (.next t) ↔ SameToHost s t := Iff.rfl

theorem sameOutcomeToHost_refused (r : Refusal) : SameOutcomeToHost (.refused r) (.refused r) := rfl

/-- A host command answers states that look alike with outcomes that look alike: what it writes of the words and the digests
is a function of the words, and what refuses a `BLOCK` is its length. -/
theorem exec_sameToHost {i : Instr} (hi : i.isHost = true) {s t : State} (h : SameToHost s t) :
    SameOutcomeToHost (exec i s) (exec i t) := by
  obtain ⟨hw, hinbox, hdigests, hs, ht⟩ := h
  obtain rfl | rfl | ⟨b, rfl⟩ := isHost_cases hi
  · rw [exec_init, exec_init, sameOutcomeToHost_next]
    exact ⟨rfl, hinbox, hdigests, hs, ht⟩
  · rw [exec_digest, exec_digest, sameOutcomeToHost_next]
    exact ⟨hw, hinbox, congrArg₂ (fun d v => d ++ [v]) hdigests hw, hs, ht⟩
  · by_cases hb : Fits b
    · rw [exec_block_of_fits hb, exec_block_of_fits hb, sameOutcomeToHost_next]
      simp only [SameToHost, SequencerIdle, State.blockStep_w, State.blockStep_inbox, State.blockStep_digests,
        State.blockStep_seq]
      exact ⟨congrArg (blockWords Config.cfg · b) hw, hinbox, hdigests, hs, ht⟩
    · rw [exec_block_of_not_fits hb, exec_block_of_not_fits hb]
      exact sameOutcomeToHost_refused _

/-- Settles O43: both states take the same command from the host, and whether it is accepted is seen in the command alone. -/
theorem hiddenStateIsNotObservable : Obligations.HiddenStateIsNotObservable := by
  intro s t h
  obtain ⟨hw, hinbox, hdigests, hs, ht⟩ := h
  cases hcommands : t.inbox with
  | nil =>
    rw [step_of_idle hs (hinbox.trans hcommands), step_of_idle ht hcommands]
    exact sameOutcomeToHost_next.2 ⟨hw, hinbox, hdigests, hs, ht⟩
  | cons c rest =>
    have hfetchs := fetch_of_inbox hs (hinbox.trans hcommands)
    have hfetcht := fetch_of_inbox ht hcommands
    cases haccept : accept .host c with
    | error r =>
      rw [step_of_rejected hfetchs haccept, step_of_rejected hfetcht haccept]
      exact sameOutcomeToHost_refused r
    | ok i =>
      rw [step_of_fetch hfetchs haccept, step_of_fetch hfetcht haccept]
      exact exec_sameToHost (accept_eq_ok haccept).2 ⟨hw, rfl, hdigests, hs, ht⟩

/-! ### The S-Box stays a bijection -/

theorem isBijection_identityTable : IsBijection identityTable := by
  rw [IsBijection, show lookup identityTable = id from funext lookup_identityTable]
  exact Function.bijective_id

/-- An exchange of two entries is an exchange of the two bytes that select them. -/
theorem lookup_swapEntries_eq_comp (t : Table) (i j : Fin 256) :
    lookup (swapEntries t i j) = lookup t ∘ Equiv.swap (BitVec.ofFin i) (BitVec.ofFin j) := by
  funext a
  have hsel : ∀ k : Fin 256, a = BitVec.ofFin k ↔ a.toNat = k.val := fun k => BitVec.toNat_inj.symm
  rw [lookup_swapEntries, Function.comp_apply, Equiv.swap_apply_def]
  simp only [hsel]
  split
  · rfl
  · split <;> rfl

theorem isBijection_swapEntries {t : Table} (h : IsBijection t) (i j : Fin 256) : IsBijection (swapEntries t i j) := by
  rw [IsBijection, lookup_swapEntries_eq_comp]
  exact h.comp (Equiv.bijective _)

theorem isBijection_shufflePass (m inc : Word) {q : Gen} (h : IsBijection q.t) : IsBijection (shufflePass m inc q).t :=
  List.foldlRecOn (motive := fun q : Gen => IsBijection q.t) passIndices _ h
    fun _ hq i _ => isBijection_swapEntries hq i _

/-- Whatever the generator, both passes only exchange entries of the identity table. -/
theorem isBijection_shuffle (g : Word) : IsBijection (shuffle g).t := by
  rw [shuffle_eq_passes]
  exact isBijection_shufflePass _ _ (isBijection_shufflePass _ _ isBijection_identityTable)

theorem isBijection_sboxGen (c : Cfg) (seed : Word) (b : Bytes) : IsBijection (sboxGen c seed b).t :=
  isBijection_shuffle _

/-! ### The invariant of the hidden state -/

theorem heldByBuffer_reset : HeldByBuffer State.reset.p :=
  (holds_bufferCapacity_iff _ _).1 (holds_cutTo _ _)

/-- Settles O50: the next multiple of 8 above the length of a block is at most the one above `Cfg.MAXLEN`. -/
theorem bufferHoldsEveryFittingBlock : Obligations.BufferHoldsEveryFittingBlock := by
  intro b hb m hm
  have hlen : b.length ≤ m := Nat.le_of_not_lt fun hlt => (not_fits_iff b).2 ⟨m, hm, hlt⟩ hb
  rw [pad_length]
  omega

/-- Settles O45: what reset leaves is unspecified, and the buffer's content is cut to its capacity. -/
theorem resetIsHiddenOk : Obligations.ResetIsHiddenOk :=
  ⟨.inl (.inl rfl), .inl (.inl rfl), heldByBuffer_reset⟩

/-- Settles O46. -/
theorem resetZeroesWordsAndIdles : Obligations.ResetZeroesWordsAndIdles :=
  ⟨rfl, rfl, rfl, rfl⟩

/-- The table is written by a shuffle or discarded, or stays. -/
theorem effect_tableOk (i : Instr) {s : State} (h : TableOk s) : TableOk (effect i s) := by
  cases i with
  | block b => exact .inl (.inr ⟨_, State.blockStep_t s Config.cfg b⟩)
  | permute p =>
    rw [TableOk, effect, State.permute_t]
    exact .inr (isBijection_sboxGen _ _ p)
  | sboxgen seed b =>
    rw [TableOk, effect, State.returnUnit_t, State.generate_t]
    exact .inr (isBijection_sboxGen _ seed b)
  | _ => exact h

/-- A buffer that `PAD` wrote holds the padded block, or a free value where that exceeds the capacity. -/
theorem bufferOk_writeBuffer_pad (s : State) (b : Bytes) : BufferOk (s.writeBuffer Config.cfg (pad b)) := by
  refine ⟨?_, heldByBuffer_writeBuffer s (pad b)⟩
  rw [State.writeBuffer_p]
  split
  · rw [pad_length]
    exact .inr (by omega)
  · exact .inl (.inr ⟨s.tick, rfl⟩)

/-- The buffer is written by `PAD` or discarded, or stays. -/
theorem effect_bufferOk (i : Instr) {s : State} (h : BufferOk s) : BufferOk (effect i s) := by
  cases i with
  | block b =>
    rw [BufferOk, effect, State.blockStep_p]
    exact ⟨.inl (.inr ⟨_, rfl⟩), heldByBuffer_freeBuffer _⟩
  | permute p =>
    rw [BufferOk, effect, State.permute_p]
    exact h
  | sboxgen seed b =>
    rw [BufferOk, effect, State.returnUnit_p, State.generate_p]
    exact h
  | pad b => exact bufferOk_writeBuffer_pad s b
  | _ => exact h

/-- Settles O44: taking an operation writes neither `T` nor `P`, and performing it keeps both parts of the invariant. -/
theorem stepKeepsHiddenOk : Obligations.StepKeepsHiddenOk := by
  intro s t hs h
  obtain ⟨-, rfl⟩ | ⟨who, c, rest, i, hfetch, -, hexec⟩ := step_cases h
  · exact hs
  · have hrest : HiddenOk rest := by
      obtain ⟨-, cs, -, rfl⟩ | ⟨-, -, cs, -, rfl⟩ := fetch_cases hfetch <;> exact hs
    obtain rfl := eq_effect_of_exec hexec
    obtain ⟨htable, hbuffer⟩ := hrest
    exact ⟨effect_tableOk i htable, effect_bufferOk i hbuffer⟩

end Sys2Proof.Machine
end

section
/-! PROOFS. The family `20_memory.md`: instances side by side do not interact. -/

namespace Sys2Proof.Machine

open Sys2Proof

/-! ### stepInstance -/

/-- A number that names no instance leaves the system as it is. -/
theorem stepInstance_of_none {k : Nat} {sys : List State} (hk : sys[k]? = none) :
    stepInstance k sys = .next sys := by
  rw [stepInstance, hk]

theorem stepInstance_of_next {k : Nat} {sys : List State} {s s' : State} (hk : sys[k]? = some s)
    (hstep : step s = .next s') : stepInstance k sys = .next (sys.set k s') := by
  simp only [stepInstance, hk, hstep]

/-- What a step of instance `k` that answers a next system can have done. -/
theorem stepInstance_cases {k : Nat} {sys a : List State} (h : stepInstance k sys = .next a) :
    (sys[k]? = none ∧ a = sys) ∨ ∃ s s', sys[k]? = some s ∧ step s = .next s' ∧ a = sys.set k s' := by
  cases hk : sys[k]? with
  | none =>
    rw [stepInstance_of_none hk] at h
    cases h
    exact .inl ⟨rfl, rfl⟩
  | some s =>
    cases hstep : step s with
    | next s' =>
      rw [stepInstance_of_next hk hstep] at h
      cases h
      exact .inr ⟨s, s', rfl, hstep, rfl⟩
    | fault f => simp [stepInstance, hk, hstep] at h
    | refused r => simp [stepInstance, hk, hstep] at h

/-- The other instances do not move. -/
theorem stepInstance_getElem?_of_ne {j k : Nat} {sys b : List State} (hjk : j ≠ k)
    (h : stepInstance k sys = .next b) : b[j]? = sys[j]? := by
  obtain ⟨-, rfl⟩ | ⟨-, s', -, -, rfl⟩ := stepInstance_cases h
  · rfl
  · exact List.getElem?_set_ne hjk.symm

/-- Instance `k` steps alike whatever state another instance is in, and leaves that state as it is. -/
theorem stepInstance_set_of_ne {j k : Nat} {sys b : List State} (hjk : j ≠ k)
    (h : stepInstance k sys = .next b) (s : State) :
    stepInstance k (sys.set j s) = .next (b.set j s) := by
  have hsame : (sys.set j s)[k]? = sys[k]? := List.getElem?_set_ne hjk
  obtain ⟨hk, rfl⟩ | ⟨t, t', hk, hstep, rfl⟩ := stepInstance_cases h
  · exact stepInstance_of_none (hsame.trans hk)
  · rw [stepInstance_of_next (hsame.trans hk) hstep, List.set_comm _ _ hjk]

/-- Settles O49: where `j` names an instance, both orders end in `b` with that instance's own next state; where it names
none, both end in `b`. -/
theorem instancesAreIndependent : Obligations.InstancesAreIndependent := by
  intro j k sys a b hjk ha hb
  have hsame : b[j]? = sys[j]? := stepInstance_getElem?_of_ne hjk hb
  obtain ⟨hj, rfl⟩ | ⟨s, s', hj, hstep, rfl⟩ := stepInstance_cases ha
  · exact ⟨b, hb, stepInstance_of_none (hsame.trans hj)⟩
  · exact ⟨b.set j s', stepInstance_set_of_ne hjk hb s', stepInstance_of_next (hsame.trans hj) hstep⟩

end Sys2Proof.Machine
end

section
/-! PROOFS. The family `30_encoding.md`: the op-code map, the decoder against the encoder, the text form of a block, what the
host is refused, and the round operand of `DIFF`. -/

namespace Sys2Proof.Machine

open Sys2Proof

/-! ### The decoder and the op-code map -/

/-- Settles O3: what decodes is its instruction's encoding, and an encoding decodes to its instruction. -/
theorem decodeInvertsEncode : Obligations.DecodeInvertsEncode := by
  refine fun c i => ⟨eq_encode_of_decode, ?_⟩
  rintro rfl
  exact Laws.RoundTrip.of_tables i

theorem code_mem_printed (o : Op) :
    o.code.toNat ∈ [0x01, 0x02, 0x03, 0x10, 0x11, 0x20, 0x30, 0x40, 0x50, 0x60] := by
  cases o <;> decide

/-- Settles O1: each row is the row of its operation's code, and a byte that has a row is the code of an operation. -/
theorem opcodeMapIsAsPrinted : Obligations.OpcodeMapIsAsPrinted := by
  refine ⟨lookupOp_code .init, lookupOp_code .block, lookupOp_code .digest, lookupOp_code .pad, lookupOp_code .absorb,
    lookupOp_code .permute, lookupOp_code .sboxgen, lookupOp_code .mix, lookupOp_code .sub, lookupOp_code .diff, ?_⟩
  intro b hb
  rw [Option.eq_none_iff_forall_ne_some]
  intro row hrow
  rw [(lookupOp_eq_some hrow).1] at hb
  exact hb (code_mem_printed row.name)

/-- Settles O2: each of the ten commands is written out as the encoding of its instruction. -/
theorem writtenOutWordsDecode : Obligations.WrittenOutWordsDecode := by
  simp only [Obligations.WrittenOutWordsDecode, decodeInvertsEncode _ _]
  exact ⟨rfl, rfl, rfl, rfl, rfl, rfl, rfl, rfl, rfl, rfl⟩

/-! ### Words of a line -/

/-- A character that neither ends a word nor starts a comment (R70). -/
abbrev IsWordChar (c : Char) : Prop := c ≠ '#' ∧ c ≠ quoteChar ∧ c ≠ ',' ∧ isBlankChar c = false

/-- Blanks, the comma, `#` and the quotation mark are at most 44 in ASCII, the comma's code. -/
theorem isWordChar_of_lt {c : Char} (hc : 44 < c.toNat) : IsWordChar c := by
  have hne : ∀ d : Char, d.toNat ≤ 44 → c ≠ d := by
    rintro d hd rfl
    omega
  refine ⟨hne '#' (by decide), hne quoteChar (by decide), hne ',' (by decide), ?_⟩
  simp [isBlankChar, hne ' ' (by decide), hne (Char.ofNat 9) (by decide)]

theorem lex_blank_wordChar {c : Char} (hc : IsWordChar c) (cs : List Char) :
    lex .blank (c :: cs) = lex (.word [c]) cs := by
  obtain ⟨hhash, hquote, hcomma, hblank⟩ := hc
  simp [lex, hhash, hquote, hcomma, hblank]

theorem lex_word_wordChar {c : Char} (hc : IsWordChar c) (acc cs : List Char) :
    lex (.word acc) (c :: cs) = lex (.word (c :: acc)) cs := by
  obtain ⟨hhash, hquote, hcomma, hblank⟩ := hc
  simp [lex, hhash, hquote, hcomma, hblank]

theorem lex_word_append {w : List Char} (hw : ∀ c ∈ w, IsWordChar c) (acc cs : List Char) :
    lex (.word acc) (w ++ cs) = lex (.word (w.reverse ++ acc)) cs := by
  induction w generalizing acc with
  | nil => rfl
  | cons c w ih =>
    obtain ⟨hc, hw⟩ := List.forall_mem_cons.1 hw
    rw [List.cons_append, lex_word_wordChar hc, ih hw, List.reverse_cons, List.append_assoc, List.singleton_append]

/-- From a blank on, a word is read up to its end. -/
theorem lex_blank_append {w : List Char} (hne : w ≠ []) (hw : ∀ c ∈ w, IsWordChar c) (cs : List Char) :
    lex .blank (w ++ cs) = lex (.word w.reverse) cs := by
  cases w with
  | nil => exact absurd rfl hne
  | cons c w =>
    obtain ⟨hc, hw⟩ := List.forall_mem_cons.1 hw
    rw [List.cons_append, lex_blank_wordChar hc, lex_word_append hw, List.reverse_cons]

theorem lex_word_nil (w : List Char) : lex (.word w.reverse) [] = some [.word w] := by
  rw [lex, List.reverse_reverse]

theorem lex_word_space (w cs : List Char) :
    lex (.word w.reverse) (' ' :: cs) = (lex .blank cs).map (.word w :: ·) := by
  have hspace : lex (.word w.reverse) (' ' :: cs) = (lex .blank cs).map (.word w.reverse.reverse :: ·) := rfl
  rw [hspace, List.reverse_reverse]

/-! ### Hexadecimal text -/

theorem isWordChar_hexChar (n : Nat) (hn : n < 16) : IsWordChar (hexChar n) := by
  have hcode : ∀ n < 16, 44 < (hexChar n).toNat := by decide
  exact isWordChar_of_lt (hcode n hn)

theorem hexDigit_hexChar : ∀ n < 16, hexDigit (hexChar n) = some n := by decide

/-- Both hexadecimal digits of a byte are below 16. -/
theorem nibbles_lt (b : Byte) : b.toNat / 16 < 16 ∧ b.toNat % 16 < 16 := by
  have hb := b.isLt
  omega

theorem isWordChar_of_mem_hexText {b : Bytes} : ∀ c ∈ hexText b, IsWordChar c := by
  induction b with
  | nil => simp [hexText]
  | cons a b ih =>
    obtain ⟨hhigh, hlow⟩ := nibbles_lt a
    exact List.forall_mem_cons.2 ⟨isWordChar_hexChar _ hhigh, List.forall_mem_cons.2 ⟨isWordChar_hexChar _ hlow, ih⟩⟩

/-- Reading two digits for each byte inverts writing them. -/
theorem hexPairs_hexText (b : Bytes) : hexPairs (hexText b) = some b := by
  induction b with
  | nil => rfl
  | cons a b ih =>
    obtain ⟨hhigh, hlow⟩ := nibbles_lt a
    simp only [hexText, hexPairs, hexDigit_hexChar _ hhigh, hexDigit_hexChar _ hlow, ih, Nat.div_add_mod,
      BitVec.ofNat_toNat, BitVec.setWidth_eq]

/-- The two pieces of a `BLOCK` line in hexadecimal. -/
theorem lex_hexBlockLine (b : Bytes) :
    lex .blank (['B', 'L', 'O', 'C', 'K', ' ', 'h', 'e', 'x', ':'] ++ hexText b) =
      some [.word ['B', 'L', 'O', 'C', 'K'], .word (['h', 'e', 'x', ':'] ++ hexText b)] := by
  have hletters : ∀ w : List Char, (∀ c ∈ w, 44 < c.toNat) → ∀ c ∈ w, IsWordChar c :=
    fun _ hw c hc => isWordChar_of_lt (hw c hc)
  have hmnemonic : ∀ c ∈ ['B', 'L', 'O', 'C', 'K'], IsWordChar c := hletters _ (by simp)
  have hoperand : ∀ c ∈ ['h', 'e', 'x', ':'] ++ hexText b, IsWordChar c :=
    List.forall_mem_append.2 ⟨hletters _ (by simp), isWordChar_of_mem_hexText⟩
  have hlex : lex .blank (['h', 'e', 'x', ':'] ++ hexText b) = some [.word (['h', 'e', 'x', ':'] ++ hexText b)] := by
    have hend := lex_blank_append (List.cons_ne_nil _ _) hoperand []
    rwa [lex_word_nil, List.append_nil] at hend
  calc lex .blank (['B', 'L', 'O', 'C', 'K'] ++ ' ' :: (['h', 'e', 'x', ':'] ++ hexText b))
      = lex (.word ['B', 'L', 'O', 'C', 'K'].reverse) (' ' :: (['h', 'e', 'x', ':'] ++ hexText b)) :=
        lex_blank_append (List.cons_ne_nil _ _) hmnemonic _
    _ = (lex .blank (['h', 'e', 'x', ':'] ++ hexText b)).map (.word ['B', 'L', 'O', 'C', 'K'] :: ·) :=
        lex_word_space _ _
    _ = some [.word ['B', 'L', 'O', 'C', 'K'], .word (['h', 'e', 'x', ':'] ++ hexText b)] := by rw [hlex]; rfl

/-- Settles O4: the line is the mnemonic and one word, whose digits read back as the block. -/
theorem hexBlockLineIsReadBack : Obligations.HexBlockLineIsReadBack := by
  intro p b
  rw [parseLine, lex_hexBlockLine]
  change (hexPairs (hexText b)).map (fun b => [Instr.block b]) = some [.block b]
  rw [hexPairs_hexText]
  rfl

/-! ### What the host is refused -/

/-- The codes of the host commands are 1, 2 and 3 (R61, R62). -/
theorem code_of_isHost {o : Op} (ho : o.format.isHost = true) :
    o.code.toNat = 1 ∨ o.code.toNat = 2 ∨ o.code.toNat = 3 := by
  cases o with
  | init => exact .inl rfl
  | block => exact .inr (.inl rfl)
  | digest => exact .inr (.inr rfl)
  | _ => cases ho

/-- From the host, any other op code is refused before its operands are looked at (R68, R174). -/
theorem accept_host_of_reserved {c : Command} (h1 : c.op.toNat ≠ 1) (h2 : c.op.toNat ≠ 2) (h3 : c.op.toNat ≠ 3) :
    accept .host c = .error .reservedOp := by
  cases hrow : lookupOp c.op with
  | none => simp only [accept, hrow]
  | some row =>
    obtain ⟨hcode, hformat⟩ := lookupOp_eq_some hrow
    have hunit : Issuer.host.mayIssue row.format = false := by
      rw [← Bool.not_eq_true, hformat]
      intro hhost
      have hhostCode := code_of_isHost hhost
      rw [← hcode] at hhostCode
      omega
    simp only [accept, hrow, hunit]

theorem State.withdraw_of_inbox {s : State} {c : Command} {rest : List Command} (hseq : s.seq = [])
    (hinbox : s.inbox = c :: rest) : s.withdraw = { s with inbox := rest } := by
  rw [State.withdraw, fetch_of_inbox hseq hinbox]

/-- Settles O10. -/
theorem reservedOpCodesAreRefused : Obligations.ReservedOpCodesAreRefused :=
  fun _ _ _ hseq hinbox h1 h2 h3 =>
    ⟨step_of_rejected (fetch_of_inbox hseq hinbox) (accept_host_of_reserved h1 h2 h3),
      State.withdraw_of_inbox hseq hinbox⟩

/-- A host command, once accepted, is refused only where it is a `BLOCK` that is too long (R172). -/
theorem exec_refused_iff_of_isHost {i : Instr} (hi : i.isHost = true) (s : State) (r : Refusal) :
    exec i s = .refused r ↔ r = .blockTooLong ∧ ∃ b, i = .block b ∧ ¬ Fits b := by
  obtain rfl | rfl | ⟨b, rfl⟩ := isHost_cases hi
  · simp [exec_init]
  · simp [exec_digest]
  · by_cases hb : Fits b
    · simp [exec_block_of_fits hb, hb]
    · simp [exec_block_of_not_fits hb, hb, eq_comm]

/-- Settles O11: a unit operation is refused for its op code, and a host command by `exec` alone. -/
theorem twoRefusalsOnly : Obligations.TwoRefusalsOnly := by
  intro s i rest r hseq hinbox
  cases hi : i.isHost with
  | true =>
    rw [step_host hseq hinbox hi, exec_refused_iff_of_isHost hi]
    simp
  | false =>
    have hnotBlock : ∀ b, i ≠ .block b := by
      rintro b rfl
      cases hi
    rw [step_host_unit hseq hinbox hi]
    simp [hnotBlock, eq_comm]

/-! ### The round of `DIFF` -/

/-- The round enters a new word only through rotation amounts, which are taken modulo 64 (R65, R120). -/
theorem diffWord_congr {r q : Nat} (h : r % 64 = q % 64) (old : Words) (i : Nat) : diffWord r old i = diffWord q old i := by
  have hamount : ∀ k, (r + k) % 64 = (q + k) % 64 := fun k => Nat.ModEq.add_right k h
  simp only [diffWord, hamount]

theorem diffWords_congr {r q : Nat} (h : r % 64 = q % 64) (old : Words) : diffWords r old = diffWords q old := by
  simp only [diffWords, diffWord_congr h]

/-- Settles O25. -/
theorem diffSeesRoundModulo64 : Obligations.DiffSeesRoundModulo64 := by
  intro r q s h
  rw [exec_diff, exec_diff, State.diffuse, State.diffuse, diffWords_congr h]

end Sys2Proof.Machine
end

section
/-! PROOFS. The family `40_sbox_gen.md`: seed mixing, the 510 steps of the shuffle, and which bytes of a sequence `SBOXGEN`
and `PERMUTE` read. -/

namespace Sys2Proof.Machine

open Sys2Proof

/-! ### Seed mixing -/

theorem seedMix_of_long (c : Cfg) (seed : Word) {b : Bytes} (h : 7 < b.length) :
    seedMix c seed b =
      seed ^^^ shl64 (zext64 b[2]) c.sboxSh2 ^^^ shl64 (zext64 b[5]) c.sboxSh5 ^^^ shl64 (zext64 b[7]) c.sboxSh7 :=
  dif_pos h

theorem seedMix_of_short (c : Cfg) (seed : Word) {b : Bytes} (h : b.length ≤ 7) :
    seedMix c seed b = b.zipIdx.foldl (fun s bk => s ^^^ shl64 (zext64 bk.1) (c.sboxPos (Fin.ofNat 8 bk.2))) seed :=
  dif_neg (Nat.not_lt.2 h)

/-- The bytes of a sequence with their indices, read by index. -/
theorem zipIdx_eq_map_range (b : Bytes) : b.zipIdx = (List.range b.length).map fun k => (b.getD k 0, k) := by
  apply List.ext_getElem
  · simp
  · intro k hk _
    rw [List.length_zipIdx] at hk
    simp [hk]

/-- The index of a byte position is taken modulo 8 either way. -/
theorem fin_ofNat_mod_eight (k : Nat) : Fin.ofNat 8 (k % 8) = Fin.ofNat 8 k :=
  Fin.ext (Nat.mod_mod k 8)

/-- Settles O27. -/
theorem seedMixingBranches : Obligations.SeedMixingBranches := by
  refine fun c seed b => ⟨fun h => seedMix_of_long c seed h, fun h => ?_⟩
  rw [seedMix_of_short c seed h, zipIdx_eq_map_range, List.foldl_map]
  simp only [fin_ofNat_mod_eight, shl64, zext64]

/-! ### The 510 steps -/

/-- The multiplier and the index of every step of the shuffle, in order (R84). -/
def shuffleSchedule : List (Word × Fin 256) :=
  passIndices.map (lcgM1, ·) ++ passIndices.map (lcgM2, ·)

theorem shuffleSchedule_length : shuffleSchedule.length = 510 := by
  rw [shuffleSchedule, List.length_append, List.length_map, List.length_map, passIndices_length]

/-- The multiplier of step `k`. -/
theorem shuffleSchedule_multiplier {k : Nat} (hk : k < shuffleSchedule.length) :
    shuffleSchedule[k].1 = if k < 255 then lcgM1 else lcgM2 := by
  simp only [shuffleSchedule, List.getElem_append, List.getElem_map, List.length_map, passIndices_length]
  split <;> rfl

/-- The index of step `k`: both passes count down from 255 to 1. -/
theorem shuffleSchedule_index {k : Nat} (hk : k < shuffleSchedule.length) :
    shuffleSchedule[k].2.val = if k < 255 then 255 - k else 510 - k := by
  simp only [shuffleSchedule, List.getElem_append, List.getElem_map, List.length_map, passIndices_length]
  split
  · exact passIndices_getElem k _
  · rw [passIndices_getElem]
    omega

/-- One step of the schedule. Both passes increment by 1 (R5). -/
def scheduledStep (q : Gen) (e : Word × Fin 256) : Gen := shuffleStep e.1 1#64 e.2 q

/-- The table and the generator after the first `k` steps, from the identity table and the generator value `g` (R82). -/
def shuffleAfter (g : Word) (k : Nat) : Gen := (shuffleSchedule.take k).foldl scheduledStep ⟨identityTable, g⟩

theorem shuffleAfter_zero (g : Word) : shuffleAfter g 0 = ⟨identityTable, g⟩ := by
  rw [shuffleAfter, List.take_zero, List.foldl_nil]

theorem shuffleAfter_succ (g : Word) {k : Nat} (hk : k < shuffleSchedule.length) :
    shuffleAfter g (k + 1) = shuffleStep shuffleSchedule[k].1 1#64 shuffleSchedule[k].2 (shuffleAfter g k) := by
  rw [shuffleAfter, List.take_succ_eq_append_getElem hk, List.foldl_concat, ← shuffleAfter, scheduledStep]

/-- After the whole schedule the two passes are done, the second on what the first left. -/
theorem shuffleAfter_all (g : Word) : shuffleAfter g 510 = shuffle g := by
  rw [shuffleAfter, List.take_of_length_le shuffleSchedule_length.le, shuffleSchedule, List.foldl_append, List.foldl_map,
    List.foldl_map, shuffle_eq_passes, shufflePass, shufflePass]
  simp only [scheduledStep, lcgC1, lcgC2]

theorem shuffleStep_g (m inc : Word) (i : Fin 256) (q : Gen) : (shuffleStep m inc i q).g = q.g * m + inc := rfl

/-- The generator after a step (R83). -/
theorem shuffleAfter_succ_g (g : Word) {k : Nat} (hk : k < 510) :
    (shuffleAfter g (k + 1)).g = (shuffleAfter g k).g * (if k < 255 then lcgM1 else lcgM2) + 1 := by
  have hk' : k < shuffleSchedule.length := shuffleSchedule_length.symm ▸ hk
  rw [shuffleAfter_succ g hk', shuffleStep_g, shuffleSchedule_multiplier]
  rfl

/-- The table after a step: the partner is taken from the generator the step leaves (R83). -/
theorem lookup_shuffleAfter_succ (g : Word) {k : Nat} (hk : k < 510) (a : Byte) :
    let i := if k < 255 then 255 - k else 510 - k
    let j := (shuffleAfter g (k + 1)).g.toNat % (i + 1)
    lookup (shuffleAfter g (k + 1)).t a =
      if a.toNat = i then lookup (shuffleAfter g k).t (BitVec.ofNat 8 j)
      else if a.toNat = j then lookup (shuffleAfter g k).t (BitVec.ofNat 8 i) else lookup (shuffleAfter g k).t a := by
  have hk' : k < shuffleSchedule.length := shuffleSchedule_length.symm ▸ hk
  rw [shuffleAfter_succ g hk', lookup_shuffleStep, shuffleSchedule_index]
  rfl

/-- All that `SBOXGEN` does. -/
theorem exec_sboxgen_eq (seed : Word) (b : Bytes) (s : State) :
    exec (.sboxgen seed b) s =
      .next { s with
        t := (sboxGen Config.cfg seed b).t
        g := (sboxGen Config.cfg seed b).g
        unitResults := s.unitResults ++ [.table (sboxGen Config.cfg seed b).t] } := by
  rw [exec_sboxgen, State.generate_eq, State.returnUnit]

/-- Settles O28: the tables and the generator values are those of `shuffleAfter`. -/
theorem sboxgenRunsTwoPasses : Obligations.SboxgenRunsTwoPasses := by
  intro seed b s
  let mixed := seedMix Config.cfg seed b
  refine ⟨fun k => (shuffleAfter mixed k).t, fun k => (shuffleAfter mixed k).g, ?_, fun a => ?_, ?_,
    fun k hk => ⟨shuffleAfter_succ_g mixed hk, lookup_shuffleAfter_succ mixed hk⟩⟩
  · simp only [exec_sboxgen_eq, shuffleAfter_all, sboxGen, mixed]
  · simp only [shuffleAfter_zero, lookup_identityTable]
  · simp only [shuffleAfter_zero, mixed]

/-! ### What the operands are read for -/

theorem sboxGen_congr {c : Cfg} {seed seed' : Word} {a b : Bytes} (h : seedMix c seed a = seedMix c seed' b) :
    sboxGen c seed a = sboxGen c seed' b :=
  congrArg shuffle h

theorem exec_sboxgen_congr {seed seed' : Word} {a b : Bytes} (h : seedMix Config.cfg seed a = seedMix Config.cfg seed' b)
    (s : State) : exec (.sboxgen seed a) s = exec (.sboxgen seed' b) s := by
  rw [exec_sboxgen_eq, exec_sboxgen_eq, sboxGen_congr h]

/-- Settles O29: a shuffle leaves a bijection whatever it starts from, and starts from the mixed seed alone. -/
theorem sboxgenLeavesBijection : Obligations.SboxgenLeavesBijection :=
  ⟨fun seed b s => ⟨_, exec_sboxgen_eq seed b s, isBijection_sboxGen Config.cfg seed b⟩,
    fun _ _ _ _ s h => exec_sboxgen_congr h s⟩

/-- Two sequences that have an index and agree at it hold the same byte there. -/
theorem getElem_eq_of_getElem?_eq {a b : Bytes} {k : Nat} (ha : k < a.length) (hb : k < b.length) (h : a[k]? = b[k]?) :
    a[k] = b[k] :=
  Option.some.inj (by rwa [List.getElem?_eq_getElem ha, List.getElem?_eq_getElem hb] at h)

/-- Of a long sequence seed mixing reads bytes 2, 5 and 7 (R81). -/
theorem seedMix_congr_of_long {a b : Bytes} (ha : 7 < a.length) (hb : 7 < b.length) (h2 : a[2]? = b[2]?)
    (h5 : a[5]? = b[5]?) (h7 : a[7]? = b[7]?) (c : Cfg) (seed : Word) : seedMix c seed a = seedMix c seed b := by
  rw [seedMix_of_long c seed ha, seedMix_of_long c seed hb, getElem_eq_of_getElem?_eq _ _ h2,
    getElem_eq_of_getElem?_eq _ _ h5, getElem_eq_of_getElem?_eq _ _ h7]

/-- Settles O30. -/
theorem sboxgenSeesThreeBytes : Obligations.SboxgenSeesThreeBytes :=
  fun seed _ _ s ha hb h2 h5 h7 => exec_sboxgen_congr (seedMix_congr_of_long ha hb h2 h5 h7 Config.cfg seed) s

/-- Of a sequence of more than 6 bytes `MIX` reads bytes 3 and 6 (R101). -/
theorem mixWord_congr_of_long {a b : Bytes} (ha : 6 < a.length) (hb : 6 < b.length) (h3 : a[3]? = b[3]?)
    (h6 : a[6]? = b[6]?) (c : Cfg) (x rc : Word) : mixWord c x rc a = mixWord c x rc b := by
  have hfold : foldVal c a ha = foldVal c b hb := by
    rw [foldVal, foldVal, getElem_eq_of_getElem?_eq _ _ h3, getElem_eq_of_getElem?_eq _ _ h6]
  rw [mixWord, mixWord, dif_pos ha, dif_pos hb, hfold]

/-- `PERMUTE` reads its operand only where it generates the S-Box and where it mixes a word (R130). -/
theorem State.permute_congr {c : Cfg} {a b : Bytes} (hseed : ∀ seed, seedMix c seed a = seedMix c seed b)
    (hmix : ∀ x rc, mixWord c x rc a = mixWord c x rc b) (s : State) : s.permute c a = s.permute c b := by
  have hgen : s.generate c (seedOf s.w) a = s.generate c (seedOf s.w) b := by
    rw [State.generate, State.generate, sboxGen_congr (hseed _)]
  have hround : State.round c a = State.round c b := by
    funext s r
    simp only [State.round, State.mixAll, mixWords, hmix]
  rw [State.permute, State.permute, hgen, hround]

/-- Settles O32: bytes 2, 5 and 7 go into the seed, bytes 3 and 6 into the fold. -/
theorem permuteSeesFiveBytes : Obligations.PermuteSeesFiveBytes := by
  intro a b s ha hb h2 h3 h5 h6 h7
  rw [exec_permute, exec_permute,
    State.permute_congr (fun seed => seedMix_congr_of_long ha hb h2 h5 h7 Config.cfg seed)
      (fun x rc => mixWord_congr_of_long (Nat.lt_of_succ_lt ha) (Nat.lt_of_succ_lt hb) h3 h6 Config.cfg x rc)]

end Sys2Proof.Machine
end

section
/-! PROOFS. The family `41_bit_mixer.md`: the two branches of `MIX`, and which bytes of a sequence it reads. -/

namespace Sys2Proof.Machine

open Sys2Proof

/-! ### The two branches of `MIX` -/

theorem mixWord_of_short (c : Cfg) (x rc : Word) {b : Bytes} (h : b.length ≤ 6) : mixWord c x rc b = c.mixCore x rc :=
  dif_neg (Nat.not_lt.2 h)

theorem mixWord_of_long (c : Cfg) (x rc : Word) {b : Bytes} (h : 6 < b.length) :
    mixWord c x rc b = c.mixFold (c.mixCore x rc) (foldVal c b h) :=
  dif_pos h

/-- The fold value as a library rotation (R101). -/
theorem foldVal_eq_rotateLeft (c : Cfg) {b : Bytes} (h : 6 < b.length) :
    foldVal c b h = ((b[3].setWidth 64 * c.mixK3) ^^^ (b[6].setWidth 64 * c.mixK6)).rotateLeft 13 :=
  rotl64_eq_rotateLeft _ mixFoldRot (by decide)

/-- All that `MIX` does. -/
theorem exec_mix_eq (x rc : Word) (b : Bytes) (s : State) :
    exec (.mix x rc b) s = .next { s with unitResults := s.unitResults ++ [.word (mixWord Config.cfg x rc b)] } := by
  rw [exec_mix, State.returnUnit]

/-- Settles O20. -/
theorem mixAppliesCoreThenFold : Obligations.MixAppliesCoreThenFold := by
  refine fun x rc b s => ⟨fun h => ?_, fun h => ?_⟩
  · rw [exec_mix_eq, mixWord_of_short Config.cfg x rc h]
  · rw [exec_mix_eq, mixWord_of_long Config.cfg x rc h, foldVal_eq_rotateLeft]

/-! ### What the operand is read for -/

/-- Settles O21: two sequences take the same branch; the long one reads bytes 3 and 6, the short one no byte. -/
theorem mixSeesTwoBytes : Obligations.MixSeesTwoBytes := by
  intro x rc a b s hlong hbytes
  have hmix : mixWord Config.cfg x rc a = mixWord Config.cfg x rc b := by
    by_cases ha : 6 < a.length
    · obtain ⟨h3, h6⟩ := hbytes ha
      exact mixWord_congr_of_long ha (hlong.1 ha) h3 h6 Config.cfg x rc
    · have hb : ¬ 6 < b.length := mt hlong.2 ha
      rw [mixWord_of_short _ _ _ (Nat.not_lt.1 ha), mixWord_of_short _ _ _ (Nat.not_lt.1 hb)]
  rw [exec_mix, exec_mix, hmix]

end Sys2Proof.Machine
end

section
/-! PROOFS. The family `42_byte_sub.md`: the bytes of a `SUB` result, and `SUB` under a bijective table. -/

namespace Sys2Proof.Machine

open Sys2Proof

/-- Settles O22: the word is `subWord` of the operand, and its byte `j` is the entry byte `j` selects. -/
theorem subLooksUpEachByte : Obligations.SubLooksUpEachByte := by
  intro w s
  refine ⟨subWord s.t w, ?_, fun j hj => byteOf_subWord s.t w j hj⟩
  rw [exec_sub, State.returnUnit]

/-- Where no two bytes select the same entry, each byte of the result tells the byte of the operand in its place. -/
theorem subWord_injective {t : Table} (h : Function.Injective (lookup t)) : Function.Injective (subWord t) := by
  intro v w hvw
  refine word_ext fun j hj => h ?_
  rw [← byteOf_subWord t v j hj, hvw, byteOf_subWord t w j hj]

/-- Settles O23: there are finitely many words, so `SUB` is onto once it is one to one. -/
theorem subIsBijective : Obligations.SubIsBijective :=
  fun _ h => Finite.injective_iff_bijective.1 (subWord_injective h.injective)

end Sys2Proof.Machine
end

section
/-! PROOFS. The family `43_diffusion_mixer.md`: the words `DIFF` reads, and the all-zero State under it. -/

namespace Sys2Proof.Machine

open Sys2Proof

/-! ### The words `DIFF` reads -/

theorem wordAt_val (w : Words) (i : Fin 8) : wordAt w i.val = w[i] := by
  simp only [wordAt, Nat.mod_eq_of_lt i.isLt, Fin.getElem_fin]

/-- The new word `i` in library rotations: every amount is below 64 (R13, R120). -/
theorem diffWord_eq_rotations (r : Nat) (old : Words) (i : Fin 8) :
    diffWord r old i.val = old[i]
      ^^^ (wordAt old (i.val + 7)).rotateLeft ((r + 2 * i.val) % 64)
      ^^^ (wordAt old (i.val + 1)).rotateRight ((r + 3 * i.val) % 64)
      ^^^ (wordAt old (i.val + 4)).rotateLeft diffRotC
      ^^^ (wordAt old (i.val + 3) * diffK).rotateLeft ((r + 5 * i.val) % 64) := by
  have hmod (n : Nat) : n % 64 < 64 := Nat.mod_lt n (by decide)
  rw [diffWord, wordAt_val, rotl64_eq_rotateLeft _ _ (hmod _), rotr64_eq_rotateRight _ _ (hmod _),
    rotl64_eq_rotateLeft _ diffRotC (by decide), rotl64_eq_rotateLeft _ _ (hmod _)]

/-- All that `DIFF` does. -/
theorem exec_diff_eq (r : Nat) (s : State) :
    exec (.diff r) s =
      .next { s with w := diffWords r s.w, diffCopy := Config.staleCopy s.tick, tick := s.tick + 1 } := by
  rw [exec_diff, State.diffuse, State.writeWords, State.dropCopy]

/-- Settles O24. -/
theorem diffReadsPreStepWords : Obligations.DiffReadsPreStepWords :=
  fun r s => ⟨_, _, _, exec_diff_eq r s, fun i => (diffWords_getElem r s.w i).trans (diffWord_eq_rotations r s.w i)⟩

/-! ### The all-zero State -/

theorem wordAt_zeroWords (k : Nat) : wordAt zeroWords k = 0#64 :=
  zeroWords_getElem ⟨k % 8, Nat.mod_lt k (by decide)⟩

theorem rotl64_zero (n : Nat) : rotl64 0#64 n = 0#64 := by
  simp [rotl64]

theorem rotr64_zero (n : Nat) : rotr64 0#64 n = 0#64 := by
  simp [rotr64]

/-- The old word and its four neighbour terms are zero (R122). -/
theorem diffWord_zeroWords (r i : Nat) : diffWord r zeroWords i = 0#64 := by
  simp only [diffWord, wordAt_zeroWords, mul64, BitVec.zero_mul, rotl64_zero, rotr64_zero, BitVec.xor_self]

theorem diffWords_zeroWords (r : Nat) : diffWords r zeroWords = zeroWords :=
  congrArg Vector.ofFn (funext fun i => diffWord_zeroWords r i.val)

/-- Settles O26. -/
theorem diffKeepsZeroState : Obligations.DiffKeepsZeroState := by
  intro r s hw
  have hzero : s.w = zeroWords := hw
  exact ⟨s.diffuse r, exec_diff r s, by rw [State.diffuse_w, hzero, diffWords_zeroWords]⟩

end Sys2Proof.Machine
end

section
/-! PROOFS. The family `44_perm_engine.md`: the rounds of `PERMUTE`, and the schedule of unit operations that performs it. -/

namespace Sys2Proof.Machine

open Sys2Proof

/-! ### The rounds -/

/-- The words after the first `k` rounds, under the table `t` (R132). -/
def wordsAfterRounds (c : Cfg) (t : Table) (p : Bytes) (w : Words) (k : Nat) : Words :=
  (List.range k).foldl (roundWords c t p) w

theorem wordsAfterRounds_succ (c : Cfg) (t : Table) (p : Bytes) (w : Words) (k : Nat) :
    wordsAfterRounds c t p w (k + 1) = roundWords c t p (wordsAfterRounds c t p w k) k := by
  rw [wordsAfterRounds, List.range_succ, List.foldl_concat, ← wordsAfterRounds]

/-- All that `PERMUTE` does: 24 rounds under the S-Box of the words at entry (R130, R131). -/
theorem exec_permute_eq (p : Bytes) (s : State) :
    exec (.permute p) s =
      .next { s with
        w := wordsAfterRounds Config.cfg (sboxGen Config.cfg (seedOf s.w) p).t p s.w 24
        t := (sboxGen Config.cfg (seedOf s.w) p).t
        g := (sboxGen Config.cfg (seedOf s.w) p).g
        diffCopy := Config.staleCopy (s.tick + 23)
        tick := s.tick + 24 } := by
  rw [exec_permute, State.permute_eq, permuteWords, nRounds, ← wordsAfterRounds]

/-- The rounds of one `PERMUTE` take each round constant in turn (R133). -/
theorem roundConst_val (c : Cfg) (r : Fin 24) : roundConst c r.val = c.rc[r] := by
  simp only [roundConst, Nat.mod_eq_of_lt r.isLt, Fin.getElem_fin]

/-- Settles O31: between two rounds stand the words that `MIX` and `SUB` leave. -/
theorem permuteRuns24Rounds : Obligations.PermuteRuns24Rounds := by
  intro p s
  let q := sboxGen Config.cfg (seedOf s.w) p
  let W := wordsAfterRounds Config.cfg q.t p s.w
  refine ⟨W, q, _, _, exec_permute_eq p s, rfl, rfl, fun r => ?_⟩
  refine ⟨subWords q.t (mixWords Config.cfg (roundConst Config.cfg r.val) p (W r.val)), fun i => ?_, fun i => ?_⟩
  · rw [subWords_getElem, mixWords_getElem, roundConst_val]
  · have hround : W (r.val + 1) = roundWords Config.cfg q.t p (W r.val) r.val := wordsAfterRounds_succ ..
    rw [hround, roundWords, diffWords_getElem]

/-! ### One unit operation on one word -/

/-- Word `i` replaced by what a unit makes of it (R132). -/
def storeBack (f : Word → Word) (w : Words) (i : Fin 8) : Words := w.set i.val (f w[i])

theorem storeBack_getElem (f : Word → Word) (w : Words) (i j : Fin 8) :
    (storeBack f w i)[j] = if j = i then f w[j] else w[j] := by
  simp only [storeBack, Fin.getElem_fin, Vector.getElem_set, Fin.ext_iff, eq_comm (a := j.val)]
  split
  · next hij => simp only [hij]
  · rfl

/-- A word visited once is replaced once, from its value before the visits: the others do not enter. -/
theorem foldl_storeBack_getElem (f : Word → Word) {l : List (Fin 8)} (hl : l.Nodup) (w : Words) (j : Fin 8) :
    (l.foldl (storeBack f) w)[j] = if j ∈ l then f w[j] else w[j] := by
  induction l generalizing w with
  | nil => simp
  | cons i l ih =>
    obtain ⟨hi, hl⟩ := List.nodup_cons.1 hl
    rw [List.foldl_cons, ih hl, storeBack_getElem]
    by_cases hj : j = i
    · simp [hj, hi]
    · simp [hj]

/-- Word by word over the lanes is all words at once. -/
theorem foldl_storeBack_lanes (f : Word → Word) (w : Words) :
    lanes.foldl (storeBack f) w = Vector.ofFn fun i => f w[i] := by
  have hnodup : lanes.Nodup := by decide
  have hall : ∀ j, j ∈ lanes := by decide
  apply Vector.ext
  intro j hj
  rw [Vector.getElem_ofFn]
  exact (foldl_storeBack_getElem f hnodup w ⟨j, hj⟩).trans (if_pos (hall _))

/-! ### The schedule performed -/

section schedule

variable (c : Cfg) (p : Bytes) (s : State)

theorem performUnit_mix (r : Nat) (i : Fin 8) :
    performUnit c p s (.mix r i) = s.writeWords (storeBack (mixWord c · (roundConst c r) p) s.w i) := rfl

theorem performUnit_sub (i : Fin 8) :
    performUnit c p s (.sub i) = s.writeWords (storeBack (subWord s.t) s.w i) := rfl

/-- Each `MIX` stores its word back; the state outside the words stays. -/
theorem foldl_performUnit_mix (r : Nat) (l : List (Fin 8)) :
    (l.map (.mix r)).foldl (performUnit c p) s =
      s.writeWords (l.foldl (storeBack (mixWord c · (roundConst c r) p)) s.w) := by
  induction l generalizing s with
  | nil => rfl
  | cons i l ih => rw [List.map_cons, List.foldl_cons, performUnit_mix, ih]; rfl

/-- Each `SUB` stores its word back; the state outside the words stays, the table among it. -/
theorem foldl_performUnit_sub (l : List (Fin 8)) :
    (l.map .sub).foldl (performUnit c p) s = s.writeWords (l.foldl (storeBack (subWord s.t)) s.w) := by
  induction l generalizing s with
  | nil => rfl
  | cons i l ih => rw [List.map_cons, List.foldl_cons, performUnit_sub, ih]; rfl

/-- The unit operations scheduled for a round perform it (R132, R134). -/
theorem foldl_performUnit_roundSchedule (r : Nat) :
    (roundSchedule r).foldl (performUnit c p) s = State.round c p s r := by
  have hmix : (lanes.map (.mix r)).foldl (performUnit c p) s = s.mixAll c (roundConst c r) p := by
    rw [foldl_performUnit_mix, foldl_storeBack_lanes, State.mixAll, mixWords]
  have hsub (s : State) : (lanes.map .sub).foldl (performUnit c p) s = s.subAll := by
    rw [foldl_performUnit_sub, foldl_storeBack_lanes, State.subAll, subWords]
  rw [roundSchedule, List.foldl_append, List.foldl_append, hmix, hsub, List.foldl_cons, List.foldl_nil, performUnit,
    State.round]

theorem foldl_performUnit_permuteSchedule : permuteSchedule.foldl (performUnit c p) s = s.permute c p := by
  rw [permuteSchedule, List.foldl_cons, List.foldl_flatMap, performUnit, State.permute]
  simp only [foldl_performUnit_roundSchedule]

end schedule

/-- Settles O34. -/
theorem scheduleRefinesPermute : Obligations.ScheduleRefinesPermute := by
  intro p s
  rw [exec_permute, foldl_performUnit_permuteSchedule]

/-! ### The schedule counted -/

/-- A kind of unit operation that every round issues `k` times is issued `24 * k` times by the rounds. -/
theorem permuteSchedule_filter_length {f : UnitStep → Bool} {a k : Nat} (hsbox : ([.sboxgen].filter f).length = a)
    (hround : ∀ r, ((roundSchedule r).filter f).length = k) : (permuteSchedule.filter f).length = a + 24 * k := by
  rw [permuteSchedule, ← List.singleton_append, List.filter_append, List.length_append, hsbox, List.filter_flatMap,
    List.length_flatMap]
  simp only [hround, List.map_const', List.length_range, List.sum_replicate, nRounds, smul_eq_mul]

theorem permuteSchedule_length : permuteSchedule.length = 409 := by
  rw [← List.filter_true permuteSchedule]
  exact permuteSchedule_filter_length (a := 1) (k := 17) rfl fun _ => rfl

/-- Settles O33: the order is the schedule's own, and each round issues 8 `MIX`, 8 `SUB` and 1 `DIFF`. -/
theorem permuteScheduleIsFixed : Obligations.PermuteScheduleIsFixed :=
  ⟨rfl, permuteSchedule_length,
    permuteSchedule_filter_length (a := 1) (k := 0) rfl fun _ => rfl,
    permuteSchedule_filter_length (a := 0) (k := 8) rfl fun _ => rfl,
    permuteSchedule_filter_length (a := 0) (k := 8) rfl fun _ => rfl,
    permuteSchedule_filter_length (a := 0) (k := 1) rfl fun _ => rfl⟩

end Sys2Proof.Machine
end

section
/-! PROOFS. The family `45_absorb_padder.md`: the padded block, the words `ABSORB` writes, and `BLOCK` as the two of them and
`PERMUTE`. -/

namespace Sys2Proof.Machine

open Sys2Proof

/-! ### The padded block -/

/-- The block with its mark, then the zero bytes (R140). -/
theorem pad_eq_append (b : Bytes) :
    pad b = b ++ [0x80#8] ++ List.replicate ((8 - (b.length + 1) % 8) % 8) 0x00#8 := by
  rw [pad, padMark, padFill, List.append_cons]

/-- Settles O15: what the buffer is given it holds, or it holds a free value, which is within the capacity. -/
theorem padAppendsMarkAndZeros : Obligations.PadAppendsMarkAndZeros := by
  intro b s
  dsimp only
  rw [← pad_eq_append]
  exact ⟨(s.writeBuffer Config.cfg (pad b)).p, s.tick + 1, exec_pad b s,
    fun h => State.writeBuffer_p_of_holds s ((holds_bufferCapacity_iff _ _).2 h), heldByBuffer_writeBuffer s (pad b)⟩

/-- The block a padded block was made of: the zero bytes at the end taken off, then the mark. -/
def unpad (p : Bytes) : Bytes := (p.rdropWhile (· == padFill)).dropLast

/-- The zero bytes at the end come off down to the mark, which is not zero. -/
theorem unpad_pad : Function.LeftInverse unpad pad := by
  intro b
  have hfill : ∀ n, ∀ x ∈ (List.replicate n padFill).reverse, (x == padFill) = true := fun n x hx =>
    beq_iff_eq.2 (List.eq_of_mem_replicate (List.mem_reverse.1 hx))
  have hmark : ¬ (padMark == padFill) = true := by decide
  rw [unpad, pad, List.append_cons, List.rdropWhile, List.reverse_append, List.dropWhile_append_of_pos (hfill _),
    ← List.rdropWhile, List.rdropWhile_concat_neg (· == padFill) _ _ hmark, List.dropLast_concat]

/-- Settles O16: the length law is that of the unit, and `unpad` undoes `PAD`. -/
theorem padLengthAndInjectivity : Obligations.PadLengthAndInjectivity :=
  ⟨fun b => ⟨pad_length b, pad_eq_append b ▸ List.prefix_append _ _⟩, unpad_pad.injective⟩

/-! ### The words `ABSORB` writes -/

/-- Word `m` takes the chunks of its own index modulo 8 and no other. -/
theorem foldl_absorbChunk_getElem (p : Bytes) (l : List Nat) (w : Words) (m : Fin 8) :
    (l.foldl (absorbChunk p) w)[m] =
      (l.filter fun k => k % 8 = m.val).foldl (fun acc k => acc ^^^ chunkWord p k) w[m] := by
  rw [List.foldl_filter]
  exact (List.foldl_hom (fun w : Words => w[m]) fun w k => by simp only [absorbChunk_getElem, decide_eq_true_eq]).symm

/-- All that `ABSORB` does to whole chunks. -/
theorem exec_absorb_eq {p : Bytes} (h : p.length % 8 = 0) (s : State) :
    exec (.absorb p) s = .next { s with w := absorbWords p s.w } :=
  exec_absorb_of_whole ((wholeChunks_iff p).2 h) s

theorem exec_absorb_pad (b : Bytes) (s : State) :
    exec (.absorb (pad b)) s = .next { s with w := absorbWords (pad b) s.w } :=
  exec_absorb_eq (by rw [pad_length, Nat.mul_mod_right]) s

/-- Settles O17: the fold over all chunk indices, seen from word `m`. -/
theorem absorbXorsChunksModuloEight : Obligations.AbsorbXorsChunksModuloEight :=
  fun p s h => ⟨_, exec_absorb_eq h s, foldl_absorbChunk_getElem p _ s.w⟩

/-- Settles O18. -/
theorem absorbOfPartialChunkIsRefused : Obligations.AbsorbOfPartialChunkIsRefused :=
  fun p s h => exec_absorb_of_partial (mt (wholeChunks_iff p).1 h) s

/-- One chunk goes into word 0, and the chunk is the sequence. -/
theorem absorbWords_getElem_of_length_eight {p : Bytes} (h : p.length = 8) (w : Words) (m : Fin 8) :
    (absorbWords p w)[m] = if 0 = m.val then w[m] ^^^ le64 p else w[m] := by
  have hchunk : chunkWord p 0 = le64 p := by
    rw [chunkWord_eq, Nat.mul_zero, List.drop_zero, List.take_of_length_le h.le]
  have hone : absorbWords p w = absorbChunk p w 0 := by
    rw [absorbWords, h]; rfl
  rw [hone, absorbChunk_getElem, hchunk]

/-- Settles O19: a block of at most 7 bytes and its mark fill one chunk. -/
theorem shortBlockTouchesWordZero : Obligations.ShortBlockTouchesWordZero := by
  intro b s hb
  have hone : (pad b).length = 8 := by
    rw [pad_length]
    omega
  have hwords := absorbWords_getElem_of_length_eight hone s.w
  exact ⟨_, exec_absorb_pad b s, (hwords 0).trans (if_pos rfl),
    fun m hm => (hwords m).trans (if_neg fun h0 => hm (Fin.ext h0.symm))⟩

/-! ### BLOCK -/

/-- A block fits where it is within `Cfg.MAXLEN`, if that is a number (R172). -/
theorem fits_iff (b : Bytes) : Fits b ↔ ∀ m, Config.cfg.maxLen = some m → b.length ≤ m := by
  rw [← not_iff_not, not_fits_iff]
  simp only [not_forall, not_le, exists_prop]

/-- What `PAD`, `ABSORB` and `PERMUTE` leave one after the other is what `BLOCK` leaves, before it discards and but for what
`PAD` returned (R144). -/
theorem exec_block_of_chain {b : Bytes} (hb : Fits b) {s s₁ s₂ s₃ : State} (hpad : exec (.pad b) s = .next s₁)
    (habsorb : exec (.absorb (pad b)) s₁ = .next s₂) (hpermute : exec (.permute (pad b)) s₂ = .next s₃) :
    exec (.block b) s = .next { s₃.discard Config.cfg with unitResults := s.unitResults } := by
  obtain rfl := eq_effect_of_exec hpad
  obtain rfl := eq_effect_of_exec habsorb
  obtain rfl := eq_effect_of_exec hpermute
  rw [exec_block_of_fits hb, State.blockStep_eq_chain]
  rfl

/-- Settles O35: the buffer holds the padded block, so the two operations take from it what they take in the `BLOCK`. -/
theorem blockIsPadAbsorbPermute : Obligations.BlockIsPadAbsorbPermute := by
  intro b s hb
  have hfits : Fits b := (fits_iff b).2 hb
  obtain ⟨s₁, hpad, hp⟩ : ∃ s₁, exec (.pad b) s = .next s₁ ∧ s₁.p = pad b :=
    ⟨_, exec_pad b s,
      State.writeBuffer_p_of_holds s ((holds_bufferCapacity_iff _ _).2 (bufferHoldsEveryFittingBlock b hfits))⟩
  obtain ⟨s₂, habsorb⟩ : ∃ s₂, exec (.absorb (pad b)) s₁ = .next s₂ := ⟨_, exec_absorb_pad b s₁⟩
  obtain ⟨s₃, hpermute⟩ : ∃ s₃, exec (.permute (pad b)) s₂ = .next s₃ := ⟨_, exec_permute (pad b) s₂⟩
  have hblock := exec_block_of_chain hfits hpad habsorb hpermute
  rw [← hp] at habsorb hpermute
  exact ⟨s₁, s₂, s₃, _, _, _, _, hpad, hp, habsorb, hpermute, hblock, heldByBuffer_freeBuffer _⟩

/-- Settles O37. -/
theorem blockUpdatesWordsByBlockFn : Obligations.BlockUpdatesWordsByBlockFn :=
  fun _ s hb => ⟨_, exec_block_of_fits hb s, State.blockStep_w .., State.blockStep_seq .., State.blockStep_inbox ..,
    State.blockStep_digests .., State.blockStep_unitResults ..⟩

end Sys2Proof.Machine
end

section
/-! PROOFS. The family `46_host_commands.md`: what `INIT` and `DIGEST` leave, that host commands complete, what a run of `HASH`
returns, and that returned digests stay. -/

namespace Sys2Proof.Machine

open Sys2Proof

/-! ### INIT and DIGEST -/

theorem zeroWords_eq : zeroWords = #v[0, 0, 0, 0, 0, 0, 0, 0] := by decide

/-- All that `INIT` does (R160). -/
theorem exec_init_eq (s : State) : exec .init s = .next { s with w := #v[0, 0, 0, 0, 0, 0, 0, 0] } := by
  rw [exec_init, zeroWords_eq, State.writeWords]

/-- All that `DIGEST` does (R162). -/
theorem exec_digest_eq (s : State) : exec .digest s = .next { s with digests := s.digests ++ [s.w] } := by
  rw [exec_digest, State.returnDigest]

/-- Settles O13: the second `INIT` is `INIT` in a state whose words are zero. -/
theorem initZeroesWords : Obligations.InitZeroesWords :=
  fun s => ⟨exec_init_eq s, exec_init_eq _⟩

/-- Settles O14: the first `DIGEST` leaves the words that the second returns. -/
theorem digestReturnsWords : Obligations.DigestReturnsWords :=
  fun s => ⟨exec_digest_eq s, exec_digest_eq _⟩

/-! ### Host commands complete -/

/-- What completes from the host is one of its three commands, and a `BLOCK` among them fits (R171). -/
theorem properHostCommand_cases {i : Instr} (hi : ProperHostCommand i) :
    i = .init ∨ i = .digest ∨ ∃ b, i = .block b ∧ Fits b := by
  cases i with
  | init => exact .inl rfl
  | digest => exact .inr (.inl rfl)
  | block b => exact .inr (.inr ⟨b, rfl, hi⟩)
  | _ => exact hi.elim

/-- Settles O12. -/
theorem properHostCommandsComplete : Obligations.ProperHostCommandsComplete := by
  intro s i rest hseq hinbox hi
  obtain rfl | rfl | ⟨b, rfl, hb⟩ := properHostCommand_cases hi
  · obtain ⟨t, hstep, -, htseq, htinbox, -⟩ := step_init hseq hinbox
    exact ⟨t, hstep, htseq, htinbox⟩
  · obtain ⟨t, hstep, -, htseq, htinbox, -⟩ := step_digest hseq hinbox
    exact ⟨t, hstep, htseq, htinbox⟩
  · obtain ⟨t, hstep, -, htseq, htinbox, -⟩ := step_block hseq hb hinbox
    exact ⟨t, hstep, htseq, htinbox⟩

/-! ### A run of `HASH` -/

/-- Settles O38: `hash` is the fold of `block_fn` from the zero words. -/
theorem hashProtocolReturnsFold : Obligations.HashProtocolReturnsFold := by
  intro s blocks hseq hinbox hfits
  rw [← zeroWords_eq]
  exact run_expandHash hfits hseq hinbox

theorem run_zero (s : State) : Host.Core.run Sys2Proof.core 0 s = .next s := rfl

theorem State.issue_inbox_of_idle {s : State} (hinbox : s.inbox = []) (is : List Instr) :
    (s.issue is).inbox = is.map encode := by
  rw [State.issue, hinbox, List.nil_append]

/-- Settles O39: the two steps are `INIT` and `DIGEST` on the idle state with the command taken, and the last one leaves the
inbox empty, as it was. -/
theorem zeroBlocksGiveZeroDigest : Obligations.ZeroBlocksGiveZeroDigest := by
  refine ⟨rfl, rfl, fun s hseq hinbox => ?_⟩
  have hinit : step (s.issue (expandHash [])) =
      .next { s with w := #v[0, 0, 0, 0, 0, 0, 0, 0], inbox := [encode .digest] } :=
    (step_host (s := s.issue (expandHash [])) hseq (State.issue_inbox_of_idle hinbox _) rfl).trans (exec_init_eq _)
  have hdigest := (step_host (s := { s with w := #v[0, 0, 0, 0, 0, 0, 0, 0], inbox := [encode .digest] })
    hseq rfl rfl).trans (exec_digest_eq _)
  rw [run_succ 1 hinit, run_succ 0 hdigest, run_zero, ← hinbox]

/-! ### Returned digests stay -/

/-- What is taken next is taken from the sequencers or the inbox, not from the digests. -/
theorem fetch_digests {s rest : State} {who : Issuer} {c : Command} (h : fetch s = some (who, c, rest)) :
    rest.digests = s.digests := by
  obtain ⟨-, cs, -, rfl⟩ | ⟨-, -, cs, -, rfl⟩ := fetch_cases h <;> rfl

/-- `DIGEST` appends to the digests, and no other operation writes them. -/
theorem digests_prefix_effect (i : Instr) (s : State) : s.digests <+: (effect i s).digests := by
  by_cases hi : i.op = .digest
  · cases i with
    | digest => exact List.prefix_append ..
    | _ => cases hi
  · rw [effect_digests s hi]

/-- Settles O47: a step is idle, or the effect of an operation on the state it was taken from. -/
theorem returnedDigestsAreImmutable : Obligations.ReturnedDigestsAreImmutable := by
  intro s t h
  obtain ⟨-, rfl⟩ | ⟨who, c, rest, i, hfetch, -, hexec⟩ := step_cases h
  · exact List.prefix_rfl
  · rw [eq_effect_of_exec hexec, ← fetch_digests hfetch]
    exact digests_prefix_effect i rest

end Sys2Proof.Machine
end

section
/-! PROOFS. The family `60_exceptions.md`: where `BLOCK` is refused for its length. -/

namespace Sys2Proof.Machine

open Sys2Proof

/-- `BLOCK` is refused exactly where the block does not fit. -/
theorem exec_block_refused_iff (b : Bytes) (s : State) : exec (.block b) s = .refused .blockTooLong ↔ ¬ Fits b := by
  simp [exec_refused_iff_of_isHost (i := .block b) rfl]

/-- Settles O36: a block that does not fit is above `Cfg.MAXLEN`, and what is taken back is the inbox's first command. -/
theorem blockLengthBound : Obligations.BlockLengthBound :=
  fun b s => ⟨(exec_block_refused_iff b s).trans (not_fits_iff b), fun _ => State.withdraw_of_inbox⟩

end Sys2Proof.Machine
end
